-- ==== Sys2Proof/Word.lean ====
section
/-! DEFINITION. The two word types of the command port (30_encoding.md R70): a command and the data of a response. -/

namespace Sys2Proof

/-- One command word, `CMD_WIDTH` = 32 bits (R7, R70). -/
abbrev CmdWord := BitVec 32

/-- The data of one response, `RESP_DATA_WIDTH` = 64 bits, bit 0 least significant (R7, R79). -/
abbrev RData := BitVec 64

end Sys2Proof
end

