-- ==== Sys2Proof/Config.lean ====
section
/-! DEFINITION. What is fixed when the block is built: the shape of `PHASE_TABLE`, the one parameter the spec leaves
open (00_scope.md R7, 92_eei_decisions.md D9). The table itself stands in `Machine.State.phaseTable`, so that every
statement about a state holds for every table; its defaults stand in Machine/Phases.lean. The fixed parameters of R7 are
the widths in the types (H, T 16, C 8, cursor 0..40, command 32, response 64, fault 3, t 16). -/

namespace Sys2Proof

/-- The rows of `PHASE_TABLE` by name (30_encoding.md R74). -/
inductive Phase where
  /-- 0: from host release until the line goes low. -/
  | presence
  /-- 1: the sensor's acknowledge low phase. -/
  | ackLow
  /-- 2: the sensor's acknowledge high phase. -/
  | ackHigh
  /-- 3: one bit's low phase. -/
  | bitLow
  /-- 4: one bit's high phase, the canonical bit phase (R108). -/
  | bitHigh
  /-- 5: one bit's low phase plus its high phase (R109). -/
  | bitCombined
deriving DecidableEq, Repr

/-- One row `(thr, bound)` of `PHASE_TABLE`, in µs. R102 compares "on unsigned naturals" and no rule gives the
entries a width (DESIGN CHOICE, entry 13). -/
structure PhaseRow where
  /-- The 0/1 threshold: `t ≤ thr` is SHORT (R102). -/
  thr : Nat
  /-- The timeout bound: `t > bound` is TIMEOUT (R102). -/
  bound : Nat
deriving DecidableEq, Repr

/-- `PHASE_TABLE`: six rows (R7, R101). -/
structure PhaseTable where
  presence : PhaseRow
  ackLow : PhaseRow
  ackHigh : PhaseRow
  bitLow : PhaseRow
  bitHigh : PhaseRow
  bitCombined : PhaseRow
deriving DecidableEq, Repr

end Sys2Proof
end

