-- ==== Sys2Proof/Syntax.lean ====
section
/-! DEFINITION. The seven commands of spec/opcode_table.json (30_encoding.md R72) and the pseudo-instructions of R82. -/

namespace Sys2Proof

/-- A command with its operands, assembled as R75 says. -/
inductive Instr where
  /-- RESET (R120). -/
  | reset
  /-- APPEND b (R121): `b` is `cmd[3]`. -/
  | append (b : Bool)
  /-- STATUS (R125). -/
  | status
  /-- CLASSIFY phase, t (R100): `phase` is `cmd[6:4]`, `t` is `cmd[31:16]`, unsigned µs. -/
  | classify (phase : BitVec 3) (t : BitVec 16)
  /-- CHECK (R150). -/
  | check
  /-- DECODE (R170). -/
  | decode
  /-- READFRAME (R127). -/
  | readframe
deriving DecidableEq, Repr

/-- The assembler's pseudo-instructions (R82). -/
inductive Pseudo where
  | append0
  | append1
  | nop
  | classifyBit (t : BitVec 16)
deriving DecidableEq, Repr

end Sys2Proof
end

