-- ==== Sys2Proof/WellFormed.lean ====
section
/-! DEFINITION. Which commands have a legal word. -/

namespace Sys2Proof

/-- The one operand whose type holds more than its legal values is CLASSIFY's phase: "phase ≤ 5" (30_encoding.md R73);
phases 6 and 7 are illegal (R74, R76). -/
def Instr.wellFormed : Instr → Bool
  | .reset => true
  | .append _ => true
  | .status => true
  | .classify phase _ => decide (phase.toNat ≤ 5)
  | .check => true
  | .decode => true
  | .readframe => true

end Sys2Proof
end

