-- ==== Sys2Proof/Decode.lean ====
section
/-! DEFINITION. The decoder (30_encoding.md R83), the encoder (R71, R81) and the opcode table's masks (R73). -/

namespace Sys2Proof

/-- Why a word is illegal: the four grounds of R76. All four raise ILLEGAL_CMD; where several hold, the name of the
first that the decoder tests is reported, which nothing in the machine can see (DESIGN CHOICE, entry 18). -/
inductive IllegalWord where
  /-- `rsv ≠ 0`. -/
  | reservedField
  /-- A field the opcode does not use is nonzero. -/
  | unusedField
  /-- `op = 3` with `phase ≥ 6`. -/
  | phaseRow
  /-- `op = 7`. -/
  | opcode7
deriving DecidableEq, Repr

/-! ### The fields of a command word (R71) -/

/-- `op`, bits [2:0]. -/
def opField (w : CmdWord) : BitVec 3 := w.extractLsb' 0 3

/-- `b`, bit [3]. -/
def bField (w : CmdWord) : Bool := w.getLsbD 3

/-- `phase`, bits [6:4]. -/
def phaseField (w : CmdWord) : BitVec 3 := w.extractLsb' 4 3

/-- `rsv`, bits [15:7]. -/
def rsvField (w : CmdWord) : BitVec 9 := w.extractLsb' 7 9

/-- `t`, bits [31:16]. -/
def tField (w : CmdWord) : BitVec 16 := w.extractLsb' 16 16

/-- A word of an opcode that uses no operand: its bits [31:3] must be zero (R83). -/
def decodeBare (w : CmdWord) (i : Instr) : Except IllegalWord Instr :=
  if w.extractLsb' 3 29 = 0 then .ok i else .error .unusedField

/-- APPEND: bits [31:4] must be zero (R83). -/
def decodeAppend (w : CmdWord) : Except IllegalWord Instr :=
  if w.extractLsb' 4 28 = 0 then .ok (.append (bField w)) else .error .unusedField

/-- CLASSIFY: "b == 0 and phase <= 5" (R83, 90_conflicts.md C6). -/
def decodeClassify (w : CmdWord) : Except IllegalWord Instr :=
  if bField w then .error .unusedField
  else if (phaseField w).toNat ≤ 5 then .ok (.classify (phaseField w) (tField w))
  else .error .phaseRow

/-- `decode` of R83: a total function of the 32-bit word alone. -/
def decodeWord (w : CmdWord) : Except IllegalWord Instr :=
  if rsvField w ≠ 0 then .error .reservedField
  else match (opField w).toNat with
    | 0 => decodeBare w .reset
    | 1 => decodeAppend w
    | 2 => decodeBare w .status
    | 3 => decodeClassify w
    | 4 => decodeBare w .check
    | 5 => decodeBare w .decode
    | 6 => decodeBare w .readframe
    | _ => .error .opcode7

/-! ### The encoder -/

/-- A word from its five fields, in the order of R71 from the most significant. -/
def assembleWord (t : BitVec 16) (phase : BitVec 3) (b : Bool) (op : BitVec 3) : CmdWord :=
  t ++ 0#9 ++ phase ++ BitVec.ofBool b ++ op

/-- The word of a command: the forms of R81. -/
def encode : Instr → CmdWord
  | .reset => assembleWord 0 0 false 0
  | .append b => assembleWord 0 0 b 1
  | .status => assembleWord 0 0 false 2
  | .classify phase t => assembleWord t phase false 3
  | .check => assembleWord 0 0 false 4
  | .decode => assembleWord 0 0 false 5
  | .readframe => assembleWord 0 0 false 6

/-! ### The opcode table -/

/-- The "mask" column of R73. -/
def Instr.mask : Instr → CmdWord
  | .reset => 0xFFFFFFFF
  | .append _ => 0xFFFFFFF7
  | .status => 0xFFFFFFFF
  | .classify _ _ => 0x0000FF8F
  | .check => 0xFFFFFFFF
  | .decode => 0xFFFFFFFF
  | .readframe => 0xFFFFFFFF

/-- The "match" column of R73. -/
def Instr.matchBits : Instr → CmdWord
  | .reset => 0x00000000
  | .append _ => 0x00000001
  | .status => 0x00000002
  | .classify _ _ => 0x00000003
  | .check => 0x00000004
  | .decode => 0x00000005
  | .readframe => 0x00000006

/-- What the decoder reads from an opcode-table word `w` of `nbits` bits, the bits above being 0. Every command is one
32-bit word (R78), so a number with a bit above bit 31 is no command. -/
def decodeTableWord (nbits w : Nat) : Option Instr :=
  if w % 2 ^ nbits < 2 ^ 32 then
    match decodeWord (BitVec.ofNat 32 (w % 2 ^ nbits)) with
    | .ok i => some i
    | .error _ => none
  else none

end Sys2Proof
end

