-- ==== Sys2Proof/Machine/Phases.lean ====
section
/-! DEFINITION. `PHASE_TABLE`: its default rows, the lookup, and the phase codes. -/

namespace Sys2Proof

/-- The defaults of 40_classifier.md R101, "the source's figures taken literally". -/
def PhaseTable.defaults : PhaseTable where
  presence := ⟨50, 50⟩
  ackLow := ⟨100, 100⟩
  ackHigh := ⟨100, 100⟩
  bitLow := ⟨70, 70⟩
  bitHigh := ⟨40, 100⟩
  bitCombined := ⟨110, 170⟩

/-- `PT[p]` (R10). -/
def PhaseTable.row (pt : PhaseTable) : Phase → PhaseRow
  | .presence => pt.presence
  | .ackLow => pt.ackLow
  | .ackHigh => pt.ackHigh
  | .bitLow => pt.bitLow
  | .bitHigh => pt.bitHigh
  | .bitCombined => pt.bitCombined

/-- The row a phase code selects (30_encoding.md R74); codes 6 and 7 select none. -/
def Phase.ofCode (code : BitVec 3) : Option Phase :=
  match code.toNat with
  | 0 => some .presence
  | 1 => some .ackLow
  | 2 => some .ackHigh
  | 3 => some .bitLow
  | 4 => some .bitHigh
  | 5 => some .bitCombined
  | _ => none

/-- The code of a row (R74). -/
def Phase.code : Phase → BitVec 3
  | .presence => 0
  | .ackLow => 1
  | .ackHigh => 2
  | .bitLow => 3
  | .bitHigh => 4
  | .bitCombined => 5

end Sys2Proof
end

