-- ==== Sys2Proof/Machine/State.lean ====
section
/-! DEFINITION. The state of the block: the six registers of 10_state.md R20, its build parameter, and the model's own
fields for its two ports and for R234. The block has no memory (20_memory.md R50) and no program counter (R22). -/

namespace Sys2Proof.Machine

/-- `chk`: 0 NONE, 1 PASS, 2 FAIL; "value 3 is never written" (R30). -/
inductive Chk where
  | none
  | pass
  | fail
deriving DecidableEq, Repr

/-- The block fault codes 1..4 (60_exceptions.md R200); 5, 6 and 7 are "never produced" (I13). -/
inductive FaultCode where
  /-- 1: the word is illegal (R76). -/
  | illegalCmd
  /-- 2: APPEND with `cursor == 40` (R122). -/
  | appendOverflow
  /-- 3: CHECK with `cursor ≠ 40` (R151). -/
  | checkIncomplete
  /-- 4: DECODE with `chk ≠ PASS` (R170). -/
  | decodeUnvalidated
deriving DecidableEq, Repr

/-- The ErrorKinds 1..7 (R204); "no error", code 0, is the absence of one. `notResponding` and `busy` are the host's
and are never produced by the block (R216). -/
inductive ErrorKind where
  | notPresent
  | ackTimeout
  | syncTimeout
  | dataTimeout
  | notResponding
  | checksumMismatch
  | busy
deriving DecidableEq, Repr

/-- The result of a classification (R102). -/
inductive PulseClass where
  | short
  | long
  | timeout
deriving DecidableEq, Repr

/-- What the host does to the block in one step: it presents a command word (R70), or it asserts `rst` (R230: "A step
that asserts rst executes no command"). -/
inductive PortInput where
  | cmd (w : CmdWord)
  | rst
deriving DecidableEq, Repr

/-- One response of the command port (R79). -/
structure Response where
  /-- 0: the command completed; 1..4: a block fault code. -/
  rfault : BitVec 3
  /-- The data, 0 when `rfault ≠ 0`. -/
  rdata : RData
deriving DecidableEq, Repr

/-- The state of the machine. -/
structure State where
  /-- Humidity sub-field: frame bit `i` is `H[15 − i]` (R23). -/
  H : BitVec 16
  /-- Temperature sub-field: frame bit `i` is `T[31 − i]` (R24). -/
  T : BitVec 16
  /-- Checksum sub-field: frame bit `i` is `C[39 − i]` (R25). -/
  C : BitVec 8
  /-- The bit-position cursor, 0..40; "A model may type it `Fin 41`" (R27, entry 6). -/
  cursor : Fin 41
  /-- The result of the last CHECK (R30). -/
  chk : Chk
  /-- The first block fault since rst, `none` for 0 (R31). -/
  fault : Option FaultCode
  /-- `PHASE_TABLE`, fixed when the block is built; no step writes it (R7, R33, entry 4). -/
  phaseTable : PhaseTable
  /-- Whether rst has ever been asserted (R234, entry 5). -/
  started : Bool
  /-- What the host will present, oldest first: each step takes one (R58, R70, entry 1). -/
  port : List PortInput
  /-- The response to the last command; none before the first one and after rst (R79, entries 2 and 10). -/
  response : Option Response
deriving DecidableEq, Repr

/-- Why the machine stops. A block fault (R200) is no stop: it is a next state with `fault` written. -/
inductive Fault where
  /-- Raised by `Machine.runCommand`, for every command on a block that has never seen rst: "no command is executed on
  it" (R234; I8 "stuck"). Safe: no claim about such a block's registers can be proved from it. -/
  | notStarted
deriving DecidableEq, Repr

/-- Why an instruction has no meaning. -/
inductive Refusal where
  /-- Raised by an arm of `Machine.exec` for an instruction with no meaning yet; no arm does. Safe: it stops. -/
  | notModelled (mnemonic : String)
deriving DecidableEq, Repr

/-- The block built with the table `pt`, right after rst (70_reset_and_hazards.md R230), with nothing presented. -/
def State.resetWith (pt : PhaseTable) : State where
  H := 0
  T := 0
  C := 0
  cursor := 0
  chk := .none
  fault := Option.none
  phaseTable := pt
  started := true
  port := []
  response := Option.none

/-- The machine right after reset, built with the default table of R101 (entry 4). -/
def State.reset : State := State.resetWith PhaseTable.defaults

end Sys2Proof.Machine
end

