-- ==== Sys2Proof/Machine/Ops.lean ====
section
/-! DEFINITION. The shared operations: register updates, the frame buffer, answering a command, taking a block fault
(60_exceptions.md R201, R206) and leaving it (70_reset_and_hazards.md R230). -/

namespace Sys2Proof.Machine

/-- What a command or a step ends in. -/
abbrev Result := Host.Outcome State Fault Refusal

/-! ### Updates -/

/-- The port returns a response. -/
def State.setResponse (r : Response) (s : State) : State := { s with response := some r }

/-- `fault <- code`. -/
def State.setFault (f : FaultCode) (s : State) : State := { s with fault := some f }

/-- `chk <- v`. -/
def State.setChk (v : Chk) (s : State) : State := { s with chk := v }

/-- `cursor <- k`. -/
def State.setCursor (k : Fin 41) (s : State) : State := { s with cursor := k }

/-- The inputs still to come. -/
def State.setPort (p : List PortInput) (s : State) : State := { s with port := p }

/-- RESET's writes (R120): the frame, the cursor and `chk`; "`fault` is not written". -/
def State.clearFrame (s : State) : State :=
  { s with H := 0, T := 0, C := 0, cursor := 0, chk := .none }

/-! ### The frame buffer -/

/-- `frame40 = H : T : C` (R26). -/
def frame40 (s : State) : BitVec 40 := s.H ++ s.T ++ s.C

/-- Frame bit `i` is `frame40[39 − i]` (R26). -/
def frameBit (s : State) (i : Fin 40) : Bool := (frame40 s).getLsbD (39 - i.val)

/-- `v[k] <- b`: the bit takes the value, whichever it held (R124). -/
def assignBit {w : Nat} (v : BitVec w) (k : Nat) (b : Bool) : BitVec w :=
  if b then v ||| BitVec.twoPow w k else v &&& ~~~(BitVec.twoPow w k)

/-- APPEND's placement of frame bit `i` (R121): humidity for 0..15, temperature for 16..31, checksum for 32..39, each
MSB-first. -/
def writeFrameBit (i : Nat) (b : Bool) (s : State) : State :=
  if i ≤ 15 then { s with H := assignBit s.H (15 - i) b }
  else if i ≤ 31 then { s with T := assignBit s.T (31 - i) b }
  else { s with C := assignBit s.C (39 - i) b }

/-- The cursor after one more bit (R123). It stays at 40, where APPEND faults before it gets here (R122). -/
def nextCursor (k : Fin 41) : Fin 41 :=
  if h : k.val < 40 then ⟨k.val + 1, by omega⟩ else k

/-! ### Answering a command -/

/-- The number of a fault code (R200). -/
def FaultCode.code : FaultCode → BitVec 3
  | .illegalCmd => 1
  | .appendOverflow => 2
  | .checkIncomplete => 3
  | .decodeUnvalidated => 4

/-- `respond(d)`: "ends the command with fault code 0 and response data `d`" (R10). -/
def respond (d : RData) (s : State) : Result := .next (s.setResponse ⟨0, d⟩)

/-- `raise Fault(code)`, taking a block fault: "exactly rule R201: `fault <- code` and the response `(code, 0)`" (R206).
It is applied to the state before the command, so "every register it would otherwise write keeps its pre-command
value" (R201). -/
def raiseFault (f : FaultCode) (s : State) : Result := .next ((s.setFault f).setResponse ⟨f.code, 0⟩)

/-- A halted block's answer: the stored code, and nothing changes (R201, R202). -/
def answerHalted (f : FaultCode) (s : State) : Result := .next (s.setResponse ⟨f.code, 0⟩)

/-- The wrapper every command runs through (R201): a block that has never seen rst executes nothing (R234), a halted
block answers its stored code, and otherwise the command runs. -/
def runCommand (body : State → Result) (s : State) : Result :=
  match s.started with
  | false => .fault .notStarted
  | true =>
    match s.fault with
    | some f => answerHalted f s
    | none => body s

/-- A word that no decoder arm takes: ILLEGAL_CMD (R76, R201). -/
def illegalCommand (s : State) : Result := runCommand (raiseFault .illegalCmd) s

/-! ### rst, and the port -/

/-- The rst input: every register to the value of R230's table "whatever the block's state", and the block has now seen
rst. It is the only way out of a block fault (R207). No command is executed, so the port holds no response (entry 10). -/
def State.applyRst (s : State) : State :=
  { s.clearFrame with fault := none, started := true, response := none }

/-- A step that asserts rst. -/
def assertRst (s : State) : Result := .next s.applyRst

/-- A step in which the host presents nothing: the block "holds its registers … between commands" (R214, entry 3). -/
def idle (s : State) : Result := .next s

/-- The host's next input, and the state without it. -/
def takeInput (s : State) : Option (PortInput × State) :=
  match s.port with
  | [] => none
  | i :: rest => some (i, s.setPort rest)

/-- The host presents the word `w` before all that it still had to present (entry 12). -/
def presentWord (w : CmdWord) (s : State) : State := s.setPort (.cmd w :: s.port)

end Sys2Proof.Machine
end

