-- ==== Sys2Proof/Machine/Flags.lean ====
section
/-! DEFINITION. The block has no flags (10_state.md R32). What stands in their place: the derived predicate "complete",
the numeric codes of the response fields, and each command's response layout (30_encoding.md R80). -/

namespace Sys2Proof.Machine

/-- "Complete" is `cursor == 40` (R28). -/
def complete (k : Fin 41) : Bool := decide (k.val = 40)

/-- `cursor` as its 6-bit register (R20). -/
def cursorBits (k : Fin 41) : BitVec 6 := BitVec.ofNat 6 k.val

/-- `chk` as its 2-bit register (R30). -/
def Chk.code : Chk → BitVec 2
  | .none => 0
  | .pass => 1
  | .fail => 2

/-- The class codes (R102): "code 3 is never produced". -/
def PulseClass.code : PulseClass → BitVec 2
  | .short => 0
  | .long => 1
  | .timeout => 2

/-- The ErrorKind codes (R204), 0 for none. -/
def errCode : Option ErrorKind → BitVec 3
  | none => 0
  | some .notPresent => 1
  | some .ackTimeout => 2
  | some .syncTimeout => 3
  | some .dataTimeout => 4
  | some .notResponding => 5
  | some .checksumMismatch => 6
  | some .busy => 7

/-! ### Response layouts (R80): every bit not listed is 0 -/

/-- APPEND (R121): `rdata[5:0] = cursor`, `rdata[6] = complete`, both after the append. -/
def appendData (k : Fin 41) : RData :=
  (BitVec.ofBool (complete k) ++ cursorBits k).setWidth 64

/-- STATUS (R125): `rdata[5:0] = cursor`, `[6] = complete`, `[9:8] = chk`. -/
def statusData (k : Fin 41) (v : Chk) : RData :=
  (v.code ++ 0#1 ++ BitVec.ofBool (complete k) ++ cursorBits k).setWidth 64

/-- READFRAME (R127): `rdata[39:0] = frame40`, `[45:40] = cursor`, `[47:46] = chk`. -/
def readFrameData (frame : BitVec 40) (k : Fin 41) (v : Chk) : RData :=
  (v.code ++ cursorBits k ++ frame).setWidth 64

/-- CLASSIFY (R100): `rdata[1:0] = class`, `[6:4] = err_kind`. -/
def classifyData (r : PulseClass × Option ErrorKind) : RData :=
  (errCode r.2 ++ 0#2 ++ r.1.code).setWidth 64

/-- CHECK's `err_kind` (R150): ChecksumMismatch unless the frame passes. -/
def checkError (pass : Bool) : Option ErrorKind :=
  if pass then none else some .checksumMismatch

/-- CHECK (R150): `rdata[7:0] = sum`, `[15:8] = C`, `[16] = pass`, `[22:20] = err_kind`. -/
def checkData (sum c : BitVec 8) (pass : Bool) : RData :=
  (errCode (checkError pass) ++ 0#3 ++ BitVec.ofBool pass ++ c ++ sum).setWidth 64

/-- DECODE (R170): `rdata[12:0] = hum_int`, `[16:13] = hum_dec`, `[29:17] = tmp_int` in two's complement,
`[33:30] = tmp_dec`, `[34] = tmp_sign`. -/
def decodeData (humInt humDec : Nat) (tmpInt : Int) (tmpDec : Nat) (tmpSign : Bool) : RData :=
  (BitVec.ofBool tmpSign ++ BitVec.ofNat 4 tmpDec ++ BitVec.ofInt 13 tmpInt ++
    BitVec.ofNat 4 humDec ++ BitVec.ofNat 13 humInt).setWidth 64

end Sys2Proof.Machine
end

