-- ==== Sys2Proof/Machine/Accumulator.lean ====
section
/-! DEFINITION. The frame accumulator: RESET, APPEND, STATUS, READFRAME (41_accumulator.md). -/

namespace Sys2Proof.Machine

/-- RESET (R120): clear the frame, the cursor and `chk`; rdata 0. It "always executes on a non-halted block" (R130). -/
def execReset (s : State) : Result :=
  runCommand (fun s => respond 0 s.clearFrame) s

/-- The state after a successful APPEND: frame bit `cursor` is `b` and the cursor has advanced (R121). -/
def appended (b : Bool) (s : State) : State :=
  (writeFrameBit s.cursor.val b s).setCursor (nextCursor s.cursor)

/-- APPEND b (R121): APPEND_OVERFLOW when the frame is complete (R122), else write the bit and advance. -/
def execAppend (b : Bool) (s : State) : Result :=
  runCommand (fun s =>
    if complete s.cursor then raiseFault .appendOverflow s
    else respond (appendData (nextCursor s.cursor)) (appended b s)) s

/-- STATUS (R125). -/
def execStatus (s : State) : Result :=
  runCommand (fun s => respond (statusData s.cursor s.chk) s) s

/-- READFRAME (R127). -/
def execReadframe (s : State) : Result :=
  runCommand (fun s => respond (readFrameData (frame40 s) s.cursor s.chk) s) s

end Sys2Proof.Machine
end

