-- ==== Sys2Proof/Machine/Operands.lean ====
section
/-! DEFINITION. How operands are read: the elapsed time (30_encoding.md R75), the byte split of a field (42_checksum.md
R152) and the sign and magnitude of the temperature (43_decoder.md R171). -/

namespace Sys2Proof.Machine

/-- `t` as "an unsigned 16-bit count of microseconds … not sign-extended, scaled or shifted" (R75). -/
def elapsed (t : BitVec 16) : Nat := t.toNat

/-- `hi(v) = v[15:8]` (R152). -/
def hiByte (v : BitVec 16) : BitVec 8 := v.extractLsb' 8 8

/-- `lo(v) = v[7:0]` (R152). -/
def loByte (v : BitVec 16) : BitVec 8 := v.extractLsb' 0 8

/-- `sign = T[15]` (R171). -/
def signFlag (v : BitVec 16) : Bool := v.getLsbD 15

/-- `mag = T[14:0]`, "value with bit 15 cleared" (R171). -/
def magnitude (v : BitVec 16) : Nat := (v.extractLsb' 0 15).toNat

end Sys2Proof.Machine
end

