-- ==== Sys2Proof/Machine/Checksum.lean ====
section
/-! DEFINITION. The checksum validator: CHECK (42_checksum.md). -/

namespace Sys2Proof.Machine

/-- `checksum(H, T)` (R152): the four bytes "are summed as naturals … and the sum is then reduced mod 256". -/
def checksum (h t : BitVec 16) : BitVec 8 :=
  BitVec.ofNat 8
    (((hiByte h).toNat + (loByte h).toNat + (hiByte t).toNat + (loByte t).toNat) % 256)

/-- "The frame passes when `checksum(H, T) == C`" (R152). -/
def passes (s : State) : Bool := checksum s.H s.T == s.C

/-- CHECK's value for `chk` (R153). -/
def chkOfPass (pass : Bool) : Chk := if pass then .pass else .fail

/-- CHECK (R150): CHECK_INCOMPLETE on an incomplete frame (R151), else `chk` records the comparison. -/
def execCheck (s : State) : Result :=
  runCommand (fun s =>
    if complete s.cursor then
      respond (checkData (checksum s.H s.T) s.C (passes s)) (s.setChk (chkOfPass (passes s)))
    else raiseFault .checkIncomplete s) s

end Sys2Proof.Machine
end

