-- ==== Sys2Proof/Machine/Classifier.lean ====
section
/-! DEFINITION. The pulse classifier: CLASSIFY (40_classifier.md). -/

namespace Sys2Proof.Machine

/-- `ErrKindOf(phase)` (R107). -/
def errKindOf : Phase → ErrorKind
  | .presence => .notPresent
  | .ackLow => .ackTimeout
  | .ackHigh => .ackTimeout
  | .bitLow => .syncTimeout
  | .bitHigh => .dataTimeout
  | .bitCombined => .dataTimeout

/-- `classify` (R102): the timeout test first (R104), then the threshold; ties go to the shorter side (R103, entry 9). -/
def classify (t : Nat) (row : PhaseRow) (p : Phase) : PulseClass × Option ErrorKind :=
  if t > row.bound then (.timeout, some (errKindOf p))
  else if t ≤ row.thr then (.short, none)
  else (.long, none)

/-- CLASSIFY phase, t (R100): no register is read or written. "ILLEGAL_CMD if `phase ≥ 6`": the decoder refuses such a
word, and this meaning says the same of the ill-formed instruction (entry 7). -/
def execClassify (phase : BitVec 3) (t : BitVec 16) (s : State) : Result :=
  runCommand (fun s =>
    match Phase.ofCode phase with
    | none => raiseFault .illegalCmd s
    | some p => respond (classifyData (classify (elapsed t) (s.phaseTable.row p) p)) s) s

end Sys2Proof.Machine
end

