-- ==== Sys2Proof/Machine/ValueDecoder.lean ====
section
/-! DEFINITION. The sensor-value decoder: DECODE (43_decoder.md). -/

namespace Sys2Proof.Machine

/-- `hum_int` (R172). -/
def humInt (h : BitVec 16) : Nat := h.toNat / 10

/-- `hum_dec` (R172). -/
def humDec (h : BitVec 16) : Nat := h.toNat % 10

/-- `ti` (R173): the quotient of the magnitude, negated if the sign flag is set. -/
def tmpInt (t : BitVec 16) : Int :=
  if signFlag t then -((magnitude t / 10 : Nat) : Int) else ((magnitude t / 10 : Nat) : Int)

/-- `td` (R173): "never negated". -/
def tmpDec (t : BitVec 16) : Nat := magnitude t % 10

/-- The response data of DECODE on the fields `h` and `t` (R170). -/
def readingData (h t : BitVec 16) : RData :=
  decodeData (humInt h) (humDec h) (tmpInt t) (tmpDec t) (signFlag t)

/-- DECODE (R170): DECODE_UNVALIDATED unless `chk = PASS`; "DECODE makes no range check" (R177). -/
def execDecode (s : State) : Result :=
  runCommand (fun s =>
    if s.chk = .pass then respond (readingData s.H s.T) s
    else raiseFault .decodeUnvalidated s) s

end Sys2Proof.Machine
end

