-- ==== Sys2Proof/Machine/Dispatch.lean ====
section
/-! DEFINITION. One arm per command. -/

namespace Sys2Proof.Machine

-- The meaning of a command (R72), the wrapper of R201 included.
def exec (i : Instr) (s : State) : Host.Outcome State Fault Refusal :=
  match i with
  | .reset => Sys2Proof.Machine.execReset s
  | .append b => Sys2Proof.Machine.execAppend b s
  | .status => Sys2Proof.Machine.execStatus s
  | .classify phase t => Sys2Proof.Machine.execClassify phase t s
  | .check => Sys2Proof.Machine.execCheck s
  | .decode => Sys2Proof.Machine.execDecode s
  | .readframe => Sys2Proof.Machine.execReadframe s

end Sys2Proof.Machine
end

