-- ==== Sys2Proof/Machine/Step.lean ====
section
/-! DEFINITION. One step of the block (00_scope.md R11): the host's next input is a command word or rst (R70, R230). -/

namespace Sys2Proof.Machine

/-- One step. A halted block answers its stored code before anything else (R203): `exec` and `illegalCommand` both run
through `runCommand`, which tests that first, so the order of R201 is kept for every word. -/
def step (s : State) : Host.Outcome State Fault Refusal :=
  match takeInput s with
  | none => idle s
  | some (.rst, s') => assertRst s'
  | some (.cmd w, s') =>
    match decodeWord w with
    | .error _ => illegalCommand s'
    | .ok i => exec i s'

/-- `s` with the host presenting, next, the command whose bits are `w` (entry 12). -/
def State.withFetchWord (s : State) (nbits w : Nat) : State :=
  presentWord (BitVec.ofNat 32 (w % 2 ^ nbits)) s

end Sys2Proof.Machine
end

