-- ==== Sys2Proof/Machine/Assembler.lean ====
section
/-! DEFINITION. The assembler (30_encoding.md R81) and its pseudo-instructions (R82): text of one line to a command. It
is a tool beside the block; no step uses it. Blanks are allowed around a mnemonic and an operand, and names are in
capitals as the spec writes them (DESIGN CHOICE, entry 11). -/

namespace Sys2Proof.Machine

/-- The expansions of R82; the canonical bit phase is BIT_HIGH (R7). -/
def expandPseudo : Pseudo → Instr
  | .append0 => .append false
  | .append1 => .append true
  | .nop => .status
  | .classifyBit t => .classify Phase.bitHigh.code t

/-- A blank of an assembler line. -/
def isBlank (c : Char) : Bool := c == ' ' || c == '\t'

/-- The text without blanks at its two ends. -/
def trimBlanks (cs : List Char) : List Char :=
  ((cs.dropWhile isBlank).reverse.dropWhile isBlank).reverse

/-- The pieces between commas. -/
def splitCommas : List Char → List (List Char)
  | [] => [[]]
  | c :: cs =>
    match c == ',', splitCommas cs with
    | true, ps => [] :: ps
    | false, [] => [[c]]
    | false, p :: ps => (c :: p) :: ps

/-- A digit's value, decimal or hexadecimal. -/
def digitValue (c : Char) : Option Nat :=
  if '0' ≤ c ∧ c ≤ '9' then some (c.toNat - '0'.toNat)
  else if 'a' ≤ c ∧ c ≤ 'f' then some (c.toNat - 'a'.toNat + 10)
  else if 'A' ≤ c ∧ c ≤ 'F' then some (c.toNat - 'A'.toNat + 10)
  else none

/-- The digits of a number in base `base`, after the value `acc`. -/
def digitsFrom (base acc : Nat) : List Char → Option Nat
  | [] => some acc
  | c :: cs =>
    match digitValue c with
    | some d => if d < base then digitsFrom base (acc * base + d) cs else none
    | none => none

/-- A number: "decimal, or hex with `0x`" (R81). -/
def parseNumber (cs : List Char) : Option Nat :=
  match cs with
  | [] => none
  | ['0', 'x'] => none
  | '0' :: 'x' :: ds => digitsFrom 16 0 ds
  | ds => digitsFrom 10 0 ds

/-- CLASSIFY's `t`: 0..65535 (R81). -/
def parseTime (cs : List Char) : Option (BitVec 16) :=
  match parseNumber cs with
  | some n => if n ≤ 65535 then some (BitVec.ofNat 16 n) else none
  | none => none

/-- CLASSIFY's `phase`: one of the six names, or 0..5 (R81). -/
def parsePhase (cs : List Char) : Option (BitVec 3) :=
  if cs = "PRESENCE".toList then some Phase.presence.code
  else if cs = "ACK_LOW".toList then some Phase.ackLow.code
  else if cs = "ACK_HIGH".toList then some Phase.ackHigh.code
  else if cs = "BIT_LOW".toList then some Phase.bitLow.code
  else if cs = "BIT_HIGH".toList then some Phase.bitHigh.code
  else if cs = "BIT_COMBINED".toList then some Phase.bitCombined.code
  else
    match parseNumber cs with
    | some n => if n ≤ 5 then some (BitVec.ofNat 3 n) else none
    | none => none

/-- APPEND's `b`: 0 or 1 (R81). -/
def parseBit (cs : List Char) : Option Bool :=
  match parseNumber cs with
  | some 0 => some false
  | some 1 => some true
  | _ => none

/-- A command that takes no operand. -/
def parseBare (mnemonic : List Char) : Option Instr :=
  if mnemonic = "RESET".toList then some .reset
  else if mnemonic = "STATUS".toList then some .status
  else if mnemonic = "CHECK".toList then some .check
  else if mnemonic = "DECODE".toList then some .decode
  else if mnemonic = "READFRAME".toList then some .readframe
  else if mnemonic = "APPEND0".toList then some (expandPseudo .append0)
  else if mnemonic = "APPEND1".toList then some (expandPseudo .append1)
  else if mnemonic = "NOP".toList then some (expandPseudo .nop)
  else none

/-- A command with one operand. -/
def parseUnary (mnemonic operand : List Char) : Option Instr :=
  if mnemonic = "APPEND".toList then (parseBit operand).map .append
  else if mnemonic = "CLASSIFYBIT".toList then
    (parseTime operand).map fun t => expandPseudo (.classifyBit t)
  else none

/-- A command with two operands. -/
def parseBinary (mnemonic first second : List Char) : Option Instr :=
  if mnemonic = "CLASSIFY".toList then
    match parsePhase first, parseTime second with
    | some p, some t => some (.classify p t)
    | _, _ => none
  else none

/-- One line: "a mnemonic, then its operands separated by commas" (R81). -/
def parseLine (line : List Char) : Option Instr :=
  let text := trimBlanks line
  let mnemonic := text.takeWhile (fun c => !isBlank c)
  let rest := trimBlanks (text.drop mnemonic.length)
  match rest.isEmpty, (splitCommas rest).map trimBlanks with
  | true, _ => parseBare mnemonic
  | false, [a] => parseUnary mnemonic a
  | false, [a, b] => parseBinary mnemonic a b
  | false, _ => none

/-- The command word of one assembler line. -/
def assembleLine (line : String) : Option CmdWord := (parseLine line.toList).map encode

end Sys2Proof.Machine
end

