-- ==== Sys2Proof/Safety.lean ====
section
/-! DEFINITION. The terms that statements use: when a command runs, what a faulted state is, and the invariants of the
reachable states. -/

namespace Sys2Proof.Machine

/-- A command runs: the block has seen rst (R234) and is not halted (R201). -/
abbrev State.Ready (s : State) : Prop := s.started = true ∧ s.fault = none

/-- The block is halted with the stored code `f` (R202). -/
abbrev State.Halted (s : State) (f : FaultCode) : Prop := s.started = true ∧ s.fault = some f

/-- On every halted block the command changes no register and its response is the stored code (R202). -/
abbrev AnswersStoredCode (i : Instr) : Prop :=
  ∀ (s : State) (f : FaultCode), s.Halted f →
    exec i s = .next { s with response := some ⟨f.code, 0⟩ }

/-- A faulted state: "A model must treat a state with `fault ≠ 0` as faulted and never final" (R31). -/
abbrev State.Faulted (s : State) : Prop := s.fault ≠ none

/-- R30: `chk ≠ NONE ⇒ cursor == 40`. -/
abbrev State.ChkOnlyWhenComplete (s : State) : Prop := s.chk ≠ .none → s.cursor = 40

/-- R29: "Every frame bit `j ≥ cursor` still holds its reset value 0". -/
abbrev State.UnwrittenBitsZero (s : State) : Prop :=
  ∀ j : Fin 40, s.cursor.val ≤ j.val → frameBit s j = false

/-- R30, R153: `chk` records the comparison of the frame that is in the buffer. -/
abbrev State.ChkMatchesFrame (s : State) : Prop :=
  (s.chk = .pass → checksum s.H s.T = s.C) ∧ (s.chk = .fail → checksum s.H s.T ≠ s.C)

/-- The invariant of the reachable states. -/
abbrev State.Inv (s : State) : Prop :=
  s.ChkOnlyWhenComplete ∧ s.UnwrittenBitsZero ∧ s.ChkMatchesFrame

/-- The two states hold the same registers (R20). -/
abbrev State.SameRegisters (s t : State) : Prop :=
  t.H = s.H ∧ t.T = s.T ∧ t.C = s.C ∧ t.cursor = s.cursor ∧ t.chk = s.chk ∧ t.fault = s.fault

/-- The fields no command touches: the build parameter, R234's condition and what the host will present. -/
abbrev State.SameSurroundings (s t : State) : Prop :=
  t.phaseTable = s.phaseTable ∧ t.started = s.started ∧ t.port = s.port

/-- The block's whole hidden and visible condition apart from the port and the last response: what R58 lets a response
depend on besides the command. -/
abbrev State.SameBlock (s t : State) : Prop :=
  s.SameRegisters t ∧ t.phaseTable = s.phaseTable ∧ t.started = s.started

/-- `(hi(H) + lo(H) + hi(T) + lo(T)) mod 256` by division and remainder: R152's sum written without the model's byte
split. -/
abbrev byteSum (h t : BitVec 16) : Nat :=
  (h.toNat / 256 + h.toNat % 256 + t.toNat / 256 + t.toNat % 256) % 256

/-- The number of a `chk` value (R20, R30). -/
abbrev chkNumber : Chk → Nat
  | .none => 0
  | .pass => 1
  | .fail => 2

/-- CLASSIFY's response data by R102 for a row and the number of its ErrorKind: `err_kind << 4 | class`. -/
abbrev classifyNumber (t : BitVec 16) (row : PhaseRow) (err : Nat) : Nat :=
  if t.toNat > row.bound then 16 * err + 2 else if t.toNat ≤ row.thr then 0 else 1

/-- R101 and R107 by phase code: the row of a table that the code selects, and the number of its ErrorKind. -/
abbrev phaseRows (pt : PhaseTable) : List (BitVec 3 × PhaseRow × Nat) :=
  [(0, pt.presence, 1), (1, pt.ackLow, 2), (2, pt.ackHigh, 2), (3, pt.bitLow, 3),
   (4, pt.bitHigh, 4), (5, pt.bitCombined, 4)]

/-- The bits of an `rdata` that R80 lists for a command. -/
abbrev listedBits : Instr → RData
  | .reset => 0
  | .append _ => 0x7F
  | .status => 0x37F
  | .classify _ _ => 0x73
  | .check => 0x71FFFF
  | .decode => 0x7FFFFFFFF
  | .readframe => 0xFFFFFFFFFFFF

/-- The bits of a 40-bit frame in arrival order: frame bit 0, the most significant, first (R26). -/
def arrivalBits (v : BitVec 40) : List Bool := (List.range 40).map fun i => v.getLsbD (39 - i)

/-- The APPEND words that send `bits`, in order (R128). -/
def appendInputs (bits : List Bool) : List PortInput := bits.map fun b => .cmd (encode (.append b))

end Sys2Proof.Machine
end

