-- ==== Sys2Proof/Certificates/Slice0/Obligations.lean ====
section
/-! DEFINITION. The statements for the provers. Each docstring names the rule or the section of spec/ it formalises.
`spec-derived` marks a rule that the spec itself marks "[derived: …]"; such a statement cites sections, not rules. -/

open Sys2Proof Sys2Proof.Machine

/-! ### The step, the wrapper, and faults -/

/-- A step at a port whose next word decodes to `i` is `exec i` on the state without that word; the step adds nothing
else around `exec` (60_exceptions.md section 1). -/
def Obligations.StepRunsDecodedInstruction : Prop :=
  ∀ (s : State) (w : CmdWord) (rest : List PortInput) (i : Instr),
    s.port = .cmd w :: rest → decodeWord w = .ok i → step s = exec i { s with port := rest }

/-- R201, all three cases of the wrapper: a halted block answers its stored code and nothing changes; an illegal word
writes only `fault <- 1`; a command completes with fault code 0, or writes only `fault` with its code. -/
def Obligations.FaultWrapper : Prop :=
  ∀ (s : State) (w : CmdWord) (rest : List PortInput),
    s.started = true → s.port = .cmd w :: rest →
    (∀ f, s.fault = some f →
      step s = .next { s with port := rest, response := some ⟨f.code, 0⟩ }) ∧
    (s.fault = none → ∀ r, decodeWord w = .error r →
      step s = .next { s with port := rest, fault := some .illegalCmd, response := some ⟨1, 0⟩ }) ∧
    (s.fault = none → ∀ i, decodeWord w = .ok i →
      ∃ t, step s = .next t ∧
        ((t.fault = none ∧ ∃ d, t.response = some ⟨0, d⟩) ∨
         (∃ f, t = { s with port := rest, fault := some f, response := some ⟨f.code, 0⟩ })))

/-- R202: once halted, every word and every command, RESET included, changes no register and is answered with the
stored code, until rst is asserted. -/
def Obligations.HaltedBlockAnswersStoredCode : Prop :=
  ∀ (s : State) (f : FaultCode), s.Halted f →
    (∀ w rest, s.port = .cmd w :: rest →
      step s = .next { s with port := rest, response := some ⟨f.code, 0⟩ }) ∧
    (∀ i, exec i s = .next { s with response := some ⟨f.code, 0⟩ }) ∧
    (∀ rest, s.port = .rst :: rest → ∃ t, step s = .next t ∧ t.Ready)

/-- R203: the fault code of a response is the stored code if halted, else 1 if the word is illegal, else the command's
own condition. -/
def Obligations.FaultPriority : Prop :=
  ∀ (s : State) (w : CmdWord) (rest : List PortInput),
    s.started = true → s.port = .cmd w :: rest →
    ∃ t r, step s = .next t ∧ t.response = some r ∧
      r.rfault =
        match s.fault, decodeWord w with
        | some f, _ => f.code
        | none, .error _ => 1
        | none, .ok (.append _) => if s.cursor = 40 then 2 else 0
        | none, .ok .check => if s.cursor = 40 then 0 else 3
        | none, .ok .decode => if s.chk = .pass then 0 else 4
        | none, .ok _ => 0

/-- R200's codes: the four numbers, all different and nonzero (60_exceptions.md section 1). -/
def Obligations.FaultCodeNumbers : Prop :=
  FaultCode.illegalCmd.code = 1 ∧ FaultCode.appendOverflow.code = 2 ∧
  FaultCode.checkIncomplete.code = 3 ∧ FaultCode.decodeUnvalidated.code = 4 ∧
  ∀ f g : FaultCode, f.code = g.code → f = g

/-- R129: RESET on a halted block does nothing but answer the stored code; RESET on a running block leaves `fault`
as it is; and a step clears `fault` only when the host asserts rst. -/
def Obligations.OnlyRstClearsFault : Prop :=
  (∀ s t : State, exec .reset s = .next t → t.fault = s.fault) ∧
  (∀ (s : State) (f : FaultCode), s.Halted f →
    exec .reset s = .next { s with response := some ⟨f.code, 0⟩ }) ∧
  (∀ (s t : State) (f : FaultCode), step s = .next t → s.fault = some f →
    t.fault ≠ some f → t.fault = none ∧ ∃ rest, s.port = .rst :: rest)

/-- R244: on a block that has seen rst, every command word gets a response in its own step, and a halted block's is
its fault code; rst too answers a next state. -/
def Obligations.StepNeverStalls : Prop :=
  ∀ s : State, s.started = true →
    (∀ w rest, s.port = .cmd w :: rest →
      ∃ t r, step s = .next t ∧ t.response = some r ∧ t.started = true ∧ t.port = rest ∧
        ∀ f, s.fault = some f → r.rfault = f.code) ∧
    (∀ rest, s.port = .rst :: rest → ∃ t, step s = .next t ∧ t.started = true ∧ t.port = rest)

/-- With nothing presented the step leaves the whole state. The idle step is the model's choice
(notes/assumptions/3.md); that the registers are held between commands is 60_exceptions.md section 5. -/
def Obligations.IdleStepHoldsState : Prop :=
  ∀ s : State, s.port = [] → step s = .next s

/-- A block that has never seen rst executes no command, by word or by instruction, and rst starts it with the reset
registers (70_reset_and_hazards.md section 2). That such a command stops, under this name, is the model's choice
(notes/assumptions/5.md), taken from "stuck" in 93_implementation_defined.md, row I8. -/
def Obligations.UnstartedBlockExecutesNothing : Prop :=
  ∀ s : State, s.started = false →
    (∀ w rest, s.port = .cmd w :: rest → step s = .fault .notStarted) ∧
    (∀ i, exec i s = .fault .notStarted) ∧
    (∀ rest, s.port = .rst :: rest →
      ∃ t, step s = .next t ∧ (State.resetWith s.phaseTable).SameRegisters t ∧ t.Ready)

/-! ### rst and reset -/

/-- R230: asserting rst gives every register the value of the table, whatever the state; no command is executed. -/
def Obligations.RstSetsEveryRegister : Prop :=
  ∀ (s : State) (rest : List PortInput), s.port = .rst :: rest →
    ∃ t, step s = .next t ∧
      t.H = 0x0000 ∧ t.T = 0x0000 ∧ t.C = 0x00 ∧ t.cursor = 0 ∧ t.chk = .none ∧ t.fault = none ∧
      t.port = rest

/-- The spec-derived rst against RESET (70_reset_and_hazards.md section 1, "rst and the RESET command differ only in
`fault`") and rst twice against once: on a running block both leave the same registers; on a halted one rst clears
the frame and `fault` and RESET changes no register; a second rst changes no register. -/
def Obligations.RstAgainstReset : Prop :=
  (∀ s u : State, s.Ready → assertRst s = .next u →
    ∃ t, exec .reset s = .next t ∧ t.SameRegisters u) ∧
  (∀ (s u : State) (f : FaultCode), s.Halted f → assertRst s = .next u →
    u.fault = none ∧ ∃ t, exec .reset s = .next t ∧ s.SameRegisters t ∧ t.fault ≠ u.fault) ∧
  (∀ s u v : State, assertRst s = .next u → assertRst u = .next v → v = u)

/-- The state after reset (10_state.md section 1, reset column), for every table the block may be built with; that
`State.reset` takes the defaults of 40_classifier.md section 2 is the model's choice (notes/assumptions/4.md), and so
are the empty port, the absent response and `started` (entries 1, 2 and 5). -/
def Obligations.ResetState : Prop :=
  (∀ pt : PhaseTable,
    State.resetWith pt =
      { H := 0, T := 0, C := 0, cursor := 0, chk := .none, fault := none,
        phaseTable := pt, started := true, port := [], response := none }) ∧
  State.reset = State.resetWith
    { presence := ⟨50, 50⟩, ackLow := ⟨100, 100⟩, ackHigh := ⟨100, 100⟩, bitLow := ⟨70, 70⟩,
      bitHigh := ⟨40, 100⟩, bitCombined := ⟨110, 170⟩ }

/-! ### Invariants and whole-machine rules -/

/-- The invariant holds at reset, whatever the table (10_state.md sections 2 and 3). -/
def Obligations.ResetMeetsInvariant : Prop :=
  (∀ pt : PhaseTable, (State.resetWith pt).Inv) ∧ State.reset.Inv

/-- Every step keeps: `chk ≠ NONE` only on a complete frame, unwritten frame bits are 0, and `chk` says truly whether
the frame in the buffer passes (10_state.md sections 2 and 3; the second part is spec-derived, the third is read from
30_encoding.md section 4 and 42_checksum.md section 2 by inference). -/
def Obligations.StepKeepsInvariant : Prop :=
  ∀ s t : State, s.Inv → step s = .next t → t.Inv

/-- A reading comes only from a complete frame whose checksum holds: the invariant that a reading is "only produced
after checksum validation succeeds" (43_decoder.md section 1), over states that meet the invariant. -/
def Obligations.ReadingOnlyFromValidatedFrame : Prop :=
  ∀ (s t : State) (d : RData), s.Inv → exec .decode s = .next t → t.response = some ⟨0, d⟩ →
    s.cursor = 40 ∧ byteSum s.H s.T = s.C.toNat

/-- No step writes `PHASE_TABLE` (10_state.md section 4), and a block that has seen rst stays so. -/
def Obligations.NoStepWritesPhaseTable : Prop :=
  ∀ s t : State, step s = .next t →
    t.phaseTable = s.phaseTable ∧ (s.started = true → t.started = true)

/-- A step's effect on the registers and its response depend only on the block's own condition and the input it takes
(20_memory.md section 6): two blocks in one condition answer one input alike, whatever comes later on their ports and
whatever they answered last. -/
def Obligations.StepDependsOnBlockAndInput : Prop :=
  ∀ (s u : State) (i : PortInput) (rs ru : List PortInput),
    s.SameBlock u → s.port = i :: rs → u.port = i :: ru →
    (∀ t, step s = .next t → ∃ v, step u = .next v ∧ t.SameBlock v ∧ v.response = t.response) ∧
    (∀ f, step s = .fault f → step u = .fault f)

/-- The "written by" column of the register table (10_state.md section 1): which commands can change which register,
for every command and state; and no command touches the table, `started` or the port. -/
def Obligations.RegistersChangeOnlyByTheirWriters : Prop :=
  ∀ (i : Instr) (s t : State), exec i s = .next t →
    (t.H ≠ s.H → i = .reset ∨ ((∃ b, i = .append b) ∧ s.cursor.val ≤ 15)) ∧
    (t.T ≠ s.T → i = .reset ∨ ((∃ b, i = .append b) ∧ 16 ≤ s.cursor.val ∧ s.cursor.val ≤ 31)) ∧
    (t.C ≠ s.C → i = .reset ∨ ((∃ b, i = .append b) ∧ 32 ≤ s.cursor.val ∧ s.cursor.val ≤ 39)) ∧
    (t.cursor ≠ s.cursor →
      (i = .reset ∧ t.cursor = 0) ∨ ((∃ b, i = .append b) ∧ t.cursor.val = s.cursor.val + 1)) ∧
    (t.chk ≠ s.chk → (i = .reset ∧ t.chk = .none) ∨ (i = .check ∧ t.chk ≠ .none)) ∧
    (t.fault ≠ s.fault → ∃ f, t = { s with fault := some f, response := some ⟨f.code, 0⟩ }) ∧
    s.SameSurroundings t

/-- R55, the side effects of every command: the four reading commands leave the whole state but the response; CHECK
writes only `chk`, and a second CHECK gives the same; every successful APPEND advances the cursor; RESET is
idempotent; a command that faults writes `fault`. -/
def Obligations.CommandSideEffects : Prop :=
  (∀ (i : Instr) (s t : State),
    (i = .status ∨ i = .readframe ∨ (∃ p x, i = .classify p x) ∨ i = .decode) →
    exec i s = .next t → t.fault = none → t = { s with response := t.response }) ∧
  (∀ s t : State, exec .check s = .next t → t.fault = none →
    t = { s with chk := t.chk, response := t.response } ∧ exec .check t = .next t) ∧
  (∀ (b : Bool) (s t : State), exec (.append b) s = .next t → t.fault = none →
    t.cursor.val = s.cursor.val + 1) ∧
  (∀ s t : State, exec .reset s = .next t → exec .reset t = .next t) ∧
  (∀ (i : Instr) (s t : State) (r : Response), exec i s = .next t → t.response = some r →
    r.rfault ≠ 0 → t.fault ≠ none)

/-- The shape of every response (30_encoding.md section 4): a fault code of at most 4; data 0 with a fault code; and
without one, no bit set that the layout table does not list for the command. -/
def Obligations.ResponseShape : Prop :=
  ∀ (i : Instr) (s t : State), exec i s = .next t →
    ∃ r, t.response = some r ∧ r.rfault.toNat ≤ 4 ∧ (r.rfault ≠ 0 → r.rdata = 0) ∧
      (r.rfault = 0 → r.rdata &&& ~~~(listedBits i) = 0)

/-! ### Encoding -/

/-- Decode and encode agree: every well-formed command, with every operand, is read back from its word
(30_encoding.md sections 1, 5 and 6). -/
def Obligations.DecodeOfEncode : Prop :=
  ∀ i : Instr, i.wellFormed = true → decodeWord (encode i) = .ok i

/-- The other direction: a word that decodes is the encoding of what it decodes to, and that is well-formed
(30_encoding.md sections 1 and 6). -/
def Obligations.EncodeOfDecode : Prop :=
  ∀ (w : CmdWord) (i : Instr), decodeWord w = .ok i → encode i = w ∧ i.wellFormed = true

/-- R73: the legal words of each opcode, by the table's mask and match, and for CLASSIFY `phase ≤ 5`. -/
def Obligations.LegalWordsByMaskAndMatch : Prop :=
  ∀ w : CmdWord,
    (decodeWord w = .ok .reset ↔ w &&& 0xFFFFFFFF = 0x00000000) ∧
    ((∃ b, decodeWord w = .ok (.append b)) ↔ w &&& 0xFFFFFFF7 = 0x00000001) ∧
    (decodeWord w = .ok .status ↔ w &&& 0xFFFFFFFF = 0x00000002) ∧
    ((∃ p t, decodeWord w = .ok (.classify p t)) ↔
      w &&& 0x0000FF8F = 0x00000003 ∧ w.toNat / 16 % 8 ≤ 5) ∧
    (decodeWord w = .ok .check ↔ w &&& 0xFFFFFFFF = 0x00000004) ∧
    (decodeWord w = .ok .decode ↔ w &&& 0xFFFFFFFF = 0x00000005) ∧
    (decodeWord w = .ok .readframe ↔ w &&& 0xFFFFFFFF = 0x00000006)

/-- R76: a word is illegal on exactly the four grounds (fields by division and remainder: op, b, phase, rsv, t); an
illegal word raises ILLEGAL_CMD, code 1; every other word is exactly one command. -/
def Obligations.IllegalWordsByFourGrounds : Prop :=
  (∀ w : CmdWord,
    (∃ r, decodeWord w = .error r) ↔
      (w.toNat % 8 = 7 ∨
       w.toNat / 128 % 512 ≠ 0 ∨
       (w.toNat % 8 = 1 ∧ (w.toNat / 16 % 8 ≠ 0 ∨ w.toNat / 65536 ≠ 0)) ∨
       (w.toNat % 8 = 3 ∧ w.toNat / 8 % 2 ≠ 0) ∨
       (w.toNat % 8 ≠ 1 ∧ w.toNat % 8 ≠ 3 ∧
         (w.toNat / 8 % 2 ≠ 0 ∨ w.toNat / 16 % 8 ≠ 0 ∨ w.toNat / 65536 ≠ 0)) ∨
       (w.toNat % 8 = 3 ∧ 6 ≤ w.toNat / 16 % 8))) ∧
  (∀ (s : State) (w : CmdWord) (rest : List PortInput) (r : IllegalWord),
    s.Ready → s.port = .cmd w :: rest → decodeWord w = .error r →
    step s = .next { s with port := rest, fault := some .illegalCmd, response := some ⟨1, 0⟩ }) ∧
  (∀ w : CmdWord, (¬ ∃ r, decodeWord w = .error r) →
    ∃ i : Instr, i.wellFormed = true ∧ encode i = w ∧
      ∀ j : Instr, j.wellFormed = true → encode j = w → j = i)

/-- Words written out from the fields (30_encoding.md sections 1 and 6, the encoding examples, spec-derived): each
family's words decode to their commands, and the four illegal examples to none. -/
def Obligations.SampleWordsDecode : Prop :=
  decodeWord 0x00000000 = .ok .reset ∧
  decodeWord 0x00000001 = .ok (.append false) ∧
  decodeWord 0x00000009 = .ok (.append true) ∧
  decodeWord 0x00000002 = .ok .status ∧
  decodeWord 0x00280043 = .ok (.classify 4 40) ∧
  decodeWord 0x00470033 = .ok (.classify 3 71) ∧
  decodeWord 0x00000003 = .ok (.classify 0 0) ∧
  decodeWord 0x006E0053 = .ok (.classify 5 110) ∧
  decodeWord 0x00000004 = .ok .check ∧
  decodeWord 0x00000005 = .ok .decode ∧
  decodeWord 0x00000006 = .ok .readframe ∧
  (∃ r, decodeWord 0x0000000B = .error r) ∧
  (∃ r, decodeWord 0x00000063 = .error r) ∧
  (∃ r, decodeWord 0x00000080 = .error r) ∧
  (∃ r, decodeWord 0x00000007 = .error r)

/-- R82: the expansions of the four pseudo-instructions, and NOP changes no state. -/
def Obligations.PseudoInstructionExpansions : Prop :=
  expandPseudo .append0 = .append false ∧ encode (expandPseudo .append0) = 0x00000001 ∧
  expandPseudo .append1 = .append true ∧ encode (expandPseudo .append1) = 0x00000009 ∧
  expandPseudo .nop = .status ∧ encode (expandPseudo .nop) = 0x00000002 ∧
  (∀ t, expandPseudo (.classifyBit t) = .classify 4 t) ∧
  (∀ s t : State, exec (expandPseudo .nop) s = .next t → t = { s with response := t.response })

/-! ### The frame accumulator -/

/-- R120: RESET's word, its effect on every running block whatever the frame's progress, the halted answer, that no
other word with op 0 is legal, and that a second RESET leaves the same state. -/
def Obligations.ResetClearsFrame : Prop :=
  encode .reset = 0x00000000 ∧
  (∀ s : State, s.Ready →
    exec .reset s = .next
      { s with H := 0x0000, T := 0x0000, C := 0x00, cursor := 0, chk := .none,
               response := some ⟨0, 0⟩ }) ∧
  AnswersStoredCode .reset ∧
  (∀ w : CmdWord, w.toNat % 8 = 0 → w ≠ 0 → ∃ r, decodeWord w = .error r) ∧
  (∀ s t : State, exec .reset s = .next t → exec .reset t = .next t)

/-- R123, with the placement of 41_accumulator.md section 2: an APPEND below 40 completes; the bit `b` goes to the one
position of H, T or C that the cursor names, MSB-first; the cursor advances by exactly 1; rdata holds the new cursor
and bit 6 exactly when it is 40; nothing else changes. -/
def Obligations.AppendWritesBitAndAdvances : Prop :=
  ∀ (s : State) (b : Bool), s.Ready → s.cursor.val < 40 →
    ∃ t, exec (.append b) s = .next t ∧
      t.cursor.val = s.cursor.val + 1 ∧
      (if s.cursor.val ≤ 15 then
        (∀ j < 16, t.H.getLsbD j = if j = 15 - s.cursor.val then b else s.H.getLsbD j) ∧
        t.T = s.T ∧ t.C = s.C
      else if s.cursor.val ≤ 31 then
        (∀ j < 16, t.T.getLsbD j = if j = 31 - s.cursor.val then b else s.T.getLsbD j) ∧
        t.H = s.H ∧ t.C = s.C
      else
        (∀ j < 8, t.C.getLsbD j = if j = 39 - s.cursor.val then b else s.C.getLsbD j) ∧
        t.H = s.H ∧ t.T = s.T) ∧
      t.chk = s.chk ∧ t.fault = none ∧ s.SameSurroundings t ∧
      t.response =
        some ⟨0, BitVec.ofNat 64
          (s.cursor.val + 1 + if s.cursor.val + 1 = 40 then 64 else 0)⟩

/-- R122: APPEND on a complete frame raises APPEND_OVERFLOW, code 2, and changes nothing else; the block is then
halted. -/
def Obligations.AppendOverflowHalts : Prop :=
  ∀ (s : State) (b : Bool), s.Ready → s.cursor = 40 →
    exec (.append b) s =
      .next { s with fault := some .appendOverflow, response := some ⟨2, 0⟩ } ∧
    ∀ (i : Instr) (t : State), exec (.append b) s = .next t →
      exec i t = .next { t with response := some ⟨2, 0⟩ }

/-- R124, over the frame's 40 bits: APPEND gives the target bit the value `b`, whichever it held, and leaves the other
39; and where the unwritten bits are 0, as on every reachable state, writing the value and OR-ing it in agree. -/
def Obligations.AppendAssignsOneFrameBit : Prop :=
  ∀ (s t : State) (b : Bool), s.Ready → s.cursor.val < 40 → exec (.append b) s = .next t →
    (∀ j : Fin 40, frameBit t j = if j.val = s.cursor.val then b else frameBit s j) ∧
    (s.UnwrittenBitsZero →
      frame40 t = frame40 s ||| (BitVec.ofBool b).setWidth 40 <<< (39 - s.cursor.val))

/-- The frame as one number (10_state.md section 2): `frame40` is `H : T : C`, and frame bit `i` is its bit `39 − i`, so
frame bit 0 is `H[15]`, frame bit 16 `T[15]` and frame bit 32 `C[7]`. The concatenation is spec-derived, and the order
inside C is the spec's own decision (notes/assumptions/16.md). -/
def Obligations.FrameBitPlacement : Prop :=
  ∀ (s : State) (i : Fin 40),
    (frame40 s).toNat = s.H.toNat * 2 ^ 24 + s.T.toNat * 2 ^ 8 + s.C.toNat ∧
    (frameBit s i = true ↔
      (s.H.toNat * 2 ^ 24 + s.T.toNat * 2 ^ 8 + s.C.toNat) / 2 ^ (39 - i.val) % 2 = 1)

/-- R125: STATUS's word, its response on every running block, no register written, and the halted answer. -/
def Obligations.StatusReports : Prop :=
  encode .status = 0x00000002 ∧
  (∀ s : State, s.Ready →
    exec .status s = .next
      { s with response := some ⟨0, BitVec.ofNat 64
          (s.cursor.val + (if s.cursor = 40 then 64 else 0) + 256 * chkNumber s.chk)⟩ }) ∧
  AnswersStoredCode .status

/-- R126: bit 6 of APPEND's and of STATUS's data is `cursor == 40`, evaluated after the command. -/
def Obligations.CompleteReportedAfterCommand : Prop :=
  ∀ (s t : State) (d : RData), t.response = some ⟨0, d⟩ →
    ((∃ b, exec (.append b) s = .next t) ∨ exec .status s = .next t) →
    (d.getLsbD 6 = true ↔ t.cursor = 40)

/-- R127: READFRAME's word, its response on every running block, partial or complete, no register written, the halted
answer, and that bits at positions ≥ cursor read 0 where the unwritten bits are 0. -/
def Obligations.ReadframeReturnsFrame : Prop :=
  encode .readframe = 0x00000006 ∧
  (∀ s : State, s.Ready →
    exec .readframe s = .next
      { s with response := some ⟨0, BitVec.ofNat 64
          (s.C.toNat + s.T.toNat * 2 ^ 8 + s.H.toNat * 2 ^ 24 + s.cursor.val * 2 ^ 40 +
            chkNumber s.chk * 2 ^ 46)⟩ }) ∧
  AnswersStoredCode .readframe ∧
  (∀ (s t : State) (d : RData) (j : Fin 40), s.UnwrittenBitsZero → s.cursor.val ≤ j.val →
    exec .readframe s = .next t → t.response = some ⟨0, d⟩ → d.getLsbD (39 - j.val) = false)

/-- 40 APPENDs from a block as rst or RESET leaves it (41_accumulator.md section 5, spec-derived): after 40 steps the
buffer holds the 40 bits MSB-first, the cursor is 40, `chk` is NONE and the last response says complete; and the 41st
APPEND faults. -/
def Obligations.FortyAppendsBuildFrame : Prop :=
  ∀ (s : State) (v : BitVec 40) (rest : List PortInput),
    s.Ready → s.cursor = 0 → s.chk = .none → s.port = appendInputs (arrivalBits v) ++ rest →
    Host.Core.run Sys2Proof.core 40 s = .next
      { s with H := v.extractLsb' 24 16, T := v.extractLsb' 8 16, C := v.extractLsb' 0 8,
               cursor := 40, port := rest, response := some ⟨0, 0x68⟩ } ∧
    ∀ (b : Bool) (later : List PortInput), rest = .cmd (encode (.append b)) :: later →
      ∃ u : State, Host.Core.run Sys2Proof.core 41 s = .next u ∧ u.fault = some .appendOverflow

/-- The round trip over a whole read (95_test_vectors.md section L1, L1-9; spec-derived): sending `H : T` and its
checksum from a fresh block, then CHECK and DECODE, validates the frame and gives data from which H and T come back. -/
def Obligations.WholeReadRoundTrip : Prop :=
  ∀ (s : State) (h t : BitVec 16) (c : BitVec 8) (rest : List PortInput),
    s.Ready → s.cursor = 0 → s.chk = .none → byteSum h t = c.toNat →
    s.port = appendInputs (arrivalBits (h ++ t ++ c)) ++
      .cmd (encode .check) :: .cmd (encode .decode) :: rest →
    ∃ (u : State) (d : RData), Host.Core.run Sys2Proof.core 42 s = .next u ∧
      u.H = h ∧ u.T = t ∧ u.C = c ∧ u.chk = .pass ∧ u.Ready ∧ u.response = some ⟨0, d⟩ ∧
      10 * (d.extractLsb' 0 13).toNat + (d.extractLsb' 13 4).toNat = h.toNat ∧
      (d.extractLsb' 34 1).toNat * 2 ^ 15 + 10 * (d.extractLsb' 17 13).toInt.natAbs +
        (d.extractLsb' 30 4).toNat = t.toNat

/-! ### The pulse classifier -/

/-- R102 with R107's ErrorKinds: CLASSIFY completes on every running block for each of the six rows and every `t`,
writes no register, and its data is TIMEOUT with the row's ErrorKind if `t > bound`, else SHORT if `t ≤ thr`, else
LONG, for whatever table the block is built with. -/
def Obligations.ClassifyComputesClass : Prop :=
  ∀ (s : State) (p : BitVec 3) (row : PhaseRow) (err : Nat) (t : BitVec 16),
    s.Ready → (p, row, err) ∈ phaseRows s.phaseTable →
    exec (.classify p t) s =
      .next { s with response := some ⟨0, BitVec.ofNat 64 (classifyNumber t row err)⟩ }

/-- CLASSIFY's own exceptions (40_classifier.md section 1): phases 6 and 7, and `b = 1`, raise ILLEGAL_CMD; as a word
on the port, and, for the phases, as the ill-formed instruction. -/
def Obligations.ClassifyIllegalForms : Prop :=
  (∀ (s : State) (t : BitVec 16) (p : BitVec 3) (b : Bool) (rest : List PortInput),
    s.Ready → (6 ≤ p.toNat ∨ b = true) → s.port = .cmd (t ++ 0#9 ++ p ++ BitVec.ofBool b ++ 3#3) :: rest →
    step s = .next { s with port := rest, fault := some .illegalCmd, response := some ⟨1, 0⟩ }) ∧
  (∀ (s : State) (t : BitVec 16) (p : BitVec 3), s.Ready → 6 ≤ p.toNat →
    exec (.classify p t) s =
      .next { s with fault := some .illegalCmd, response := some ⟨1, 0⟩ })

/-- Ties go to the shorter side (40_classifier.md section 3): `t = thr` is SHORT where `thr ≤ bound`, and `t = bound`
is never TIMEOUT: SHORT if `bound ≤ thr`, else LONG. That the first clause needs `thr ≤ bound` is the model's
inference (notes/assumptions/9.md). -/
def Obligations.TiesAreShorter : Prop :=
  ∀ (s u : State) (p : BitVec 3) (row : PhaseRow) (err : Nat) (t : BitVec 16),
    s.Ready → (p, row, err) ∈ phaseRows s.phaseTable → exec (.classify p t) s = .next u →
    (t.toNat = row.thr → row.thr ≤ row.bound → u.response = some ⟨0, 0⟩) ∧
    (t.toNat = row.bound → u.response = some ⟨0, if row.bound ≤ row.thr then 0 else 1⟩)

/-- A row with `thr ≥ bound` never gives LONG, so with the default rows phases 0 to 3 never do (40_classifier.md
section 3, spec-derived). -/
def Obligations.NoLongWhenThresholdReachesBound : Prop :=
  ∀ (s u : State) (p : BitVec 3) (row : PhaseRow) (err : Nat) (t : BitVec 16) (d : RData),
    s.Ready → (p, row, err) ∈ phaseRows s.phaseTable → exec (.classify p t) s = .next u →
    u.response = some ⟨0, d⟩ →
    (row.bound ≤ row.thr ∨ (s.phaseTable = PhaseTable.defaults ∧ p.toNat ≤ 3)) →
    d.extractLsb' 0 2 ≠ 1

/-- R111: CLASSIFY's response depends only on `phase`, `t` and the table: two running blocks with one table, whatever
else they hold, answer alike, and no register is written. -/
def Obligations.ClassifyIndependentOfState : Prop :=
  ∀ (s u : State) (p : BitVec 3) (t : BitVec 16),
    s.Ready → u.Ready → s.phaseTable = u.phaseTable → p.toNat ≤ 5 →
    ∃ r, exec (.classify p t) s = .next { s with response := some r } ∧
      exec (.classify p t) u = .next { u with response := some r }

/-- The two ends of `t` (40_classifier.md section 5): `t = 0` is SHORT in every phase with every table, and a saturated
`t = 65535` is TIMEOUT in every row whose bound is below it. -/
def Obligations.ElapsedTimeEnds : Prop :=
  ∀ (s : State) (p : BitVec 3) (row : PhaseRow) (err : Nat),
    s.Ready → (p, row, err) ∈ phaseRows s.phaseTable →
    exec (.classify p 0) s = .next { s with response := some ⟨0, 0⟩ } ∧
    (row.bound < 65535 →
      exec (.classify p 0xFFFF) s =
        .next { s with response := some ⟨0, BitVec.ofNat 64 (16 * err + 2)⟩ })

/-- With the default rows of the two bit phases, the two encodings of one bit disagree for a high phase of 41 to 60 µs
after a 50 µs low phase, and time out from different widths on (40_classifier.md section 4, spec-derived). -/
def Obligations.BitPhasesDisagree : Prop :=
  ∀ (s : State) (h : BitVec 16),
    s.Ready → s.phaseTable.bitHigh = ⟨40, 100⟩ → s.phaseTable.bitCombined = ⟨110, 170⟩ →
    h.toNat + 50 < 65536 →
    ∃ d e, exec (.classify 4 h) s = .next { s with response := some ⟨0, d⟩ } ∧
      exec (.classify 5 (h + 50)) s = .next { s with response := some ⟨0, e⟩ } ∧
      (d = 1 ↔ 41 ≤ h.toNat ∧ h.toNat ≤ 100) ∧ (e = 0 ↔ h.toNat ≤ 60) ∧
      (d.extractLsb' 0 2 = 2 ↔ 100 < h.toNat) ∧ (e.extractLsb' 0 2 = 2 ↔ 120 < h.toNat)

/-- R205: an ErrorKind is data. A CLASSIFY, TIMEOUT or not, and a CHECK of a frame that does not pass complete with
fault code 0, change nothing but what their rule says, and leave the block ready for any command. -/
def Obligations.ErrorKindIsData : Prop :=
  (∀ (s : State) (p : BitVec 3) (t : BitVec 16), s.Ready → p.toNat ≤ 5 →
    ∃ u d, exec (.classify p t) s = .next u ∧ u = { s with response := some ⟨0, d⟩ } ∧ u.Ready) ∧
  (∀ s : State, s.Ready → s.cursor = 40 → byteSum s.H s.T ≠ s.C.toNat →
    ∃ u d, exec .check s = .next u ∧ u = { s with chk := .fail, response := some ⟨0, d⟩ } ∧
      u.Ready ∧ d.getLsbD 16 = false ∧ d.extractLsb' 20 3 = 6)

/-- R216: the block never produces NotResponding (5) or Busy (7): CLASSIFY's `err_kind` is at most 4 and its class is
never 3, and CHECK's `err_kind` is 0 or 6. -/
def Obligations.HostErrorKindsNeverProduced : Prop :=
  (∀ (s u : State) (p : BitVec 3) (t : BitVec 16) (d : RData),
    exec (.classify p t) s = .next u → u.response = some ⟨0, d⟩ →
    (d.extractLsb' 4 3).toNat ≤ 4 ∧ d.extractLsb' 0 2 ≠ 3) ∧
  (∀ (s u : State) (d : RData), exec .check s = .next u → u.response = some ⟨0, d⟩ →
    d.extractLsb' 20 3 = 0 ∨ d.extractLsb' 20 3 = 6)

/-! ### The checksum validator -/

/-- R153, with the response of 42_checksum.md section 1: CHECK of a complete frame writes PASS when the four bytes'
sum mod 256 is C and FAIL when it is not, writes nothing else, and returns the sum, C, the pass bit and the
ErrorKind. -/
def Obligations.CheckRecordsComparison : Prop :=
  ∀ s : State, s.Ready → s.cursor = 40 →
    exec .check s = .next
      { s with
        chk := if byteSum s.H s.T = s.C.toNat then .pass else .fail
        response := some ⟨0, BitVec.ofNat 64
          (byteSum s.H s.T + s.C.toNat * 2 ^ 8 +
            if byteSum s.H s.T = s.C.toNat then 2 ^ 16 else 6 * 2 ^ 20)⟩ }

/-- R151: CHECK of an incomplete frame raises CHECK_INCOMPLETE, code 3, changes no register but `fault`, and the block
is then halted. -/
def Obligations.CheckIncompleteHalts : Prop :=
  ∀ s : State, s.Ready → s.cursor ≠ 40 →
    exec .check s =
      .next { s with fault := some .checkIncomplete, response := some ⟨3, 0⟩ } ∧
    ∀ (i : Instr) (t : State), exec .check s = .next t →
      exec i t = .next { t with response := some ⟨3, 0⟩ }

/-- R152: the checksum of two 16-bit values is the sum of their four bytes, at most 1020, mod 256; reducing after each
addition gives the same value; and a complete frame passes when it equals C. -/
def Obligations.ChecksumFormula : Prop :=
  (∀ h t : BitVec 16,
    (hiByte h).toNat = h.toNat / 256 ∧ (loByte h).toNat = h.toNat % 256 ∧
    (hiByte h).toNat + (loByte h).toNat + (hiByte t).toNat + (loByte t).toNat ≤ 1020 ∧
    (checksum h t).toNat =
      ((hiByte h).toNat + (loByte h).toNat + (hiByte t).toNat + (loByte t).toNat) % 256 ∧
    checksum h t = hiByte h + loByte h + hiByte t + loByte t) ∧
  (∀ s t : State, s.Ready → s.cursor = 40 → exec .check s = .next t →
    (t.chk = .pass ↔ checksum s.H s.T = s.C))

/-- Every single-bit corruption of a passing frame fails CHECK with ChecksumMismatch (42_checksum.md section 2,
spec-derived): `s` holds a frame that passes, and `u` the frame with one of its 40 bits flipped. -/
def Obligations.SingleBitCorruptionFails : Prop :=
  ∀ (s u : State) (i : Fin 40),
    byteSum s.H s.T = s.C.toNat → frame40 u = frame40 s ^^^ BitVec.twoPow 40 i.val →
    u.Ready → u.cursor = 40 →
    ∃ v d, exec .check u = .next v ∧ v.chk = .fail ∧ v.response = some ⟨0, d⟩ ∧
      d.getLsbD 16 = false ∧ d.extractLsb' 20 3 = 6

/-- A failing CHECK leaves the frame: a DECODE next is refused with code 4, and a READFRAME next returns the frame
(42_checksum.md section 2). -/
def Obligations.FailingCheckKeepsFrame : Prop :=
  ∀ s t : State, s.Ready → exec .check s = .next t → t.chk = .fail → t.fault = none →
    t.H = s.H ∧ t.T = s.T ∧ t.C = s.C ∧
    exec .decode t = .next { t with fault := some .decodeUnvalidated, response := some ⟨4, 0⟩ } ∧
    ∃ d, exec .readframe t = .next { t with response := some ⟨0, d⟩ } ∧
      d.extractLsb' 0 40 = s.H ++ s.T ++ s.C

/-! ### The value decoder -/

/-- R170, R172, R173: DECODE's word; on a running block with `chk = PASS` its response, from `H / 10`, `H mod 10`, the
magnitude `T mod 2^15` and the sign `T / 2^15`, with no range check and no register written; DECODE_UNVALIDATED, code 4,
for NONE and for FAIL; and the halted answer. -/
def Obligations.DecodeReturnsReading : Prop :=
  encode .decode = 0x00000005 ∧
  (∀ s : State, s.Ready → s.chk = .pass →
    exec .decode s = .next
      { s with response := some ⟨0, BitVec.ofNat 64
          (s.H.toNat / 10 + s.H.toNat % 10 * 2 ^ 13 +
            (if s.T.toNat / 2 ^ 15 = 1 then (2 ^ 13 - s.T.toNat % 2 ^ 15 / 10) % 2 ^ 13
             else s.T.toNat % 2 ^ 15 / 10) * 2 ^ 17 +
            s.T.toNat % 2 ^ 15 % 10 * 2 ^ 30 + s.T.toNat / 2 ^ 15 * 2 ^ 34)⟩ }) ∧
  (∀ s : State, s.Ready → s.chk ≠ .pass →
    exec .decode s =
      .next { s with fault := some .decodeUnvalidated, response := some ⟨4, 0⟩ }) ∧
  AnswersStoredCode .decode

/-- The fields of a reading hold their values whole, signed for `tmp_int`, inside the stated ranges, and no other bit
is set (43_decoder.md section 2, spec-derived). -/
def Obligations.ReadingFieldsAreExact : Prop :=
  ∀ (s t : State) (d : RData), exec .decode s = .next t → t.response = some ⟨0, d⟩ →
    (d.extractLsb' 0 13).toNat = s.H.toNat / 10 ∧ s.H.toNat / 10 ≤ 6553 ∧
    (d.extractLsb' 13 4).toNat = s.H.toNat % 10 ∧
    (d.extractLsb' 17 13).toInt =
      (if s.T.getLsbD 15 then -((s.T.toNat % 2 ^ 15 / 10 : Nat) : Int)
       else ((s.T.toNat % 2 ^ 15 / 10 : Nat) : Int)) ∧
    -3276 ≤ (d.extractLsb' 17 13).toInt ∧ (d.extractLsb' 17 13).toInt ≤ 3276 ∧
    (d.extractLsb' 30 4).toNat = s.T.toNat % 2 ^ 15 % 10 ∧
    d.getLsbD 34 = s.T.getLsbD 15 ∧ d.toNat < 2 ^ 35

/-- A reading loses nothing: `H = 10·hum_int + hum_dec` and `T = sign·2^15 + 10·|tmp_int| + tmp_dec`, so two frames
with one reading are one frame (43_decoder.md section 2, spec-derived). -/
def Obligations.ReadingRecoversFields : Prop :=
  ∀ (s t : State) (d : RData), exec .decode s = .next t → t.response = some ⟨0, d⟩ →
    s.H.toNat = 10 * (d.extractLsb' 0 13).toNat + (d.extractLsb' 13 4).toNat ∧
    s.T.toNat = (d.extractLsb' 34 1).toNat * 2 ^ 15 +
      10 * (d.extractLsb' 17 13).toInt.natAbs + (d.extractLsb' 30 4).toNat

/-- R175: with the sign set and a magnitude below 10, `tmp_int` is 0, `tmp_dec` the magnitude and `tmp_sign` 1, so the
tenths value is −mag; without the sign the same pair comes with `tmp_sign` 0. -/
def Obligations.NegativeTenthsKeepSign : Prop :=
  ∀ s : State, s.Ready → s.chk = .pass → s.T.toNat % 2 ^ 15 < 10 →
    ∃ t d, exec .decode s = .next t ∧ t.response = some ⟨0, d⟩ ∧
      (d.extractLsb' 17 13).toInt = 0 ∧ (d.extractLsb' 30 4).toNat = s.T.toNat % 2 ^ 15 ∧
      (d.getLsbD 34 = true ↔ 2 ^ 15 ≤ s.T.toNat)
end

