-- ==== Sys2Proof/Laws/State.lean ====
section
/-! SUPPORT. The fields of every state update, one lemma per field per update, each true by definition. -/

namespace Sys2Proof.Machine

/-! ### setResponse -/

@[simp] theorem State.setResponse_H (r : Response) (s : State) : (s.setResponse r).H = s.H := rfl
@[simp] theorem State.setResponse_T (r : Response) (s : State) : (s.setResponse r).T = s.T := rfl
@[simp] theorem State.setResponse_C (r : Response) (s : State) : (s.setResponse r).C = s.C := rfl
@[simp] theorem State.setResponse_cursor (r : Response) (s : State) : (s.setResponse r).cursor = s.cursor := rfl
@[simp] theorem State.setResponse_chk (r : Response) (s : State) : (s.setResponse r).chk = s.chk := rfl
@[simp] theorem State.setResponse_fault (r : Response) (s : State) : (s.setResponse r).fault = s.fault := rfl
@[simp] theorem State.setResponse_phaseTable (r : Response) (s : State) : (s.setResponse r).phaseTable = s.phaseTable := rfl
@[simp] theorem State.setResponse_started (r : Response) (s : State) : (s.setResponse r).started = s.started := rfl
@[simp] theorem State.setResponse_port (r : Response) (s : State) : (s.setResponse r).port = s.port := rfl
@[simp] theorem State.setResponse_response (r : Response) (s : State) : (s.setResponse r).response = some r := rfl

/-! ### setFault -/

@[simp] theorem State.setFault_H (f : FaultCode) (s : State) : (s.setFault f).H = s.H := rfl
@[simp] theorem State.setFault_T (f : FaultCode) (s : State) : (s.setFault f).T = s.T := rfl
@[simp] theorem State.setFault_C (f : FaultCode) (s : State) : (s.setFault f).C = s.C := rfl
@[simp] theorem State.setFault_cursor (f : FaultCode) (s : State) : (s.setFault f).cursor = s.cursor := rfl
@[simp] theorem State.setFault_chk (f : FaultCode) (s : State) : (s.setFault f).chk = s.chk := rfl
@[simp] theorem State.setFault_fault (f : FaultCode) (s : State) : (s.setFault f).fault = some f := rfl
@[simp] theorem State.setFault_phaseTable (f : FaultCode) (s : State) : (s.setFault f).phaseTable = s.phaseTable := rfl
@[simp] theorem State.setFault_started (f : FaultCode) (s : State) : (s.setFault f).started = s.started := rfl
@[simp] theorem State.setFault_port (f : FaultCode) (s : State) : (s.setFault f).port = s.port := rfl
@[simp] theorem State.setFault_response (f : FaultCode) (s : State) : (s.setFault f).response = s.response := rfl

/-! ### setChk -/

@[simp] theorem State.setChk_H (v : Chk) (s : State) : (s.setChk v).H = s.H := rfl
@[simp] theorem State.setChk_T (v : Chk) (s : State) : (s.setChk v).T = s.T := rfl
@[simp] theorem State.setChk_C (v : Chk) (s : State) : (s.setChk v).C = s.C := rfl
@[simp] theorem State.setChk_cursor (v : Chk) (s : State) : (s.setChk v).cursor = s.cursor := rfl
@[simp] theorem State.setChk_chk (v : Chk) (s : State) : (s.setChk v).chk = v := rfl
@[simp] theorem State.setChk_fault (v : Chk) (s : State) : (s.setChk v).fault = s.fault := rfl
@[simp] theorem State.setChk_phaseTable (v : Chk) (s : State) : (s.setChk v).phaseTable = s.phaseTable := rfl
@[simp] theorem State.setChk_started (v : Chk) (s : State) : (s.setChk v).started = s.started := rfl
@[simp] theorem State.setChk_port (v : Chk) (s : State) : (s.setChk v).port = s.port := rfl
@[simp] theorem State.setChk_response (v : Chk) (s : State) : (s.setChk v).response = s.response := rfl

/-! ### setCursor -/

@[simp] theorem State.setCursor_H (k : Fin 41) (s : State) : (s.setCursor k).H = s.H := rfl
@[simp] theorem State.setCursor_T (k : Fin 41) (s : State) : (s.setCursor k).T = s.T := rfl
@[simp] theorem State.setCursor_C (k : Fin 41) (s : State) : (s.setCursor k).C = s.C := rfl
@[simp] theorem State.setCursor_cursor (k : Fin 41) (s : State) : (s.setCursor k).cursor = k := rfl
@[simp] theorem State.setCursor_chk (k : Fin 41) (s : State) : (s.setCursor k).chk = s.chk := rfl
@[simp] theorem State.setCursor_fault (k : Fin 41) (s : State) : (s.setCursor k).fault = s.fault := rfl
@[simp] theorem State.setCursor_phaseTable (k : Fin 41) (s : State) : (s.setCursor k).phaseTable = s.phaseTable := rfl
@[simp] theorem State.setCursor_started (k : Fin 41) (s : State) : (s.setCursor k).started = s.started := rfl
@[simp] theorem State.setCursor_port (k : Fin 41) (s : State) : (s.setCursor k).port = s.port := rfl
@[simp] theorem State.setCursor_response (k : Fin 41) (s : State) : (s.setCursor k).response = s.response := rfl

/-! ### setPort -/

@[simp] theorem State.setPort_H (p : List PortInput) (s : State) : (s.setPort p).H = s.H := rfl
@[simp] theorem State.setPort_T (p : List PortInput) (s : State) : (s.setPort p).T = s.T := rfl
@[simp] theorem State.setPort_C (p : List PortInput) (s : State) : (s.setPort p).C = s.C := rfl
@[simp] theorem State.setPort_cursor (p : List PortInput) (s : State) : (s.setPort p).cursor = s.cursor := rfl
@[simp] theorem State.setPort_chk (p : List PortInput) (s : State) : (s.setPort p).chk = s.chk := rfl
@[simp] theorem State.setPort_fault (p : List PortInput) (s : State) : (s.setPort p).fault = s.fault := rfl
@[simp] theorem State.setPort_phaseTable (p : List PortInput) (s : State) : (s.setPort p).phaseTable = s.phaseTable := rfl
@[simp] theorem State.setPort_started (p : List PortInput) (s : State) : (s.setPort p).started = s.started := rfl
@[simp] theorem State.setPort_port (p : List PortInput) (s : State) : (s.setPort p).port = p := rfl
@[simp] theorem State.setPort_response (p : List PortInput) (s : State) : (s.setPort p).response = s.response := rfl

/-! ### clearFrame -/

@[simp] theorem State.clearFrame_H (s : State) : (s.clearFrame).H = 0 := rfl
@[simp] theorem State.clearFrame_T (s : State) : (s.clearFrame).T = 0 := rfl
@[simp] theorem State.clearFrame_C (s : State) : (s.clearFrame).C = 0 := rfl
@[simp] theorem State.clearFrame_cursor (s : State) : (s.clearFrame).cursor = 0 := rfl
@[simp] theorem State.clearFrame_chk (s : State) : (s.clearFrame).chk = Chk.none := rfl
@[simp] theorem State.clearFrame_fault (s : State) : (s.clearFrame).fault = s.fault := rfl
@[simp] theorem State.clearFrame_phaseTable (s : State) : (s.clearFrame).phaseTable = s.phaseTable := rfl
@[simp] theorem State.clearFrame_started (s : State) : (s.clearFrame).started = s.started := rfl
@[simp] theorem State.clearFrame_port (s : State) : (s.clearFrame).port = s.port := rfl
@[simp] theorem State.clearFrame_response (s : State) : (s.clearFrame).response = s.response := rfl

/-! ### applyRst -/

@[simp] theorem State.applyRst_H (s : State) : (s.applyRst).H = 0 := rfl
@[simp] theorem State.applyRst_T (s : State) : (s.applyRst).T = 0 := rfl
@[simp] theorem State.applyRst_C (s : State) : (s.applyRst).C = 0 := rfl
@[simp] theorem State.applyRst_cursor (s : State) : (s.applyRst).cursor = 0 := rfl
@[simp] theorem State.applyRst_chk (s : State) : (s.applyRst).chk = Chk.none := rfl
@[simp] theorem State.applyRst_fault (s : State) : (s.applyRst).fault = none := rfl
@[simp] theorem State.applyRst_phaseTable (s : State) : (s.applyRst).phaseTable = s.phaseTable := rfl
@[simp] theorem State.applyRst_started (s : State) : (s.applyRst).started = true := rfl
@[simp] theorem State.applyRst_port (s : State) : (s.applyRst).port = s.port := rfl
@[simp] theorem State.applyRst_response (s : State) : (s.applyRst).response = none := rfl

/-! ### The fields APPEND's write leaves alone -/

@[simp] theorem writeFrameBit_cursor (i : Nat) (b : Bool) (s : State) :
    (writeFrameBit i b s).cursor = s.cursor := by
  unfold writeFrameBit; split_ifs <;> rfl

@[simp] theorem writeFrameBit_chk (i : Nat) (b : Bool) (s : State) :
    (writeFrameBit i b s).chk = s.chk := by
  unfold writeFrameBit; split_ifs <;> rfl

@[simp] theorem writeFrameBit_fault (i : Nat) (b : Bool) (s : State) :
    (writeFrameBit i b s).fault = s.fault := by
  unfold writeFrameBit; split_ifs <;> rfl

@[simp] theorem writeFrameBit_phaseTable (i : Nat) (b : Bool) (s : State) :
    (writeFrameBit i b s).phaseTable = s.phaseTable := by
  unfold writeFrameBit; split_ifs <;> rfl

@[simp] theorem writeFrameBit_started (i : Nat) (b : Bool) (s : State) :
    (writeFrameBit i b s).started = s.started := by
  unfold writeFrameBit; split_ifs <;> rfl

@[simp] theorem writeFrameBit_port (i : Nat) (b : Bool) (s : State) :
    (writeFrameBit i b s).port = s.port := by
  unfold writeFrameBit; split_ifs <;> rfl

@[simp] theorem writeFrameBit_response (i : Nat) (b : Bool) (s : State) :
    (writeFrameBit i b s).response = s.response := by
  unfold writeFrameBit; split_ifs <;> rfl

end Sys2Proof.Machine
end

