-- ==== Sys2Proof/Laws/Ops.lean ====
section
/-! SUPPORT. What each shared operation can do, said once: answering, the wrapper of R201, the port, and the frame
buffer's one write. -/

namespace Sys2Proof.Machine

/-! ### Answering a command -/

theorem respond_eq (d : RData) (s : State) : respond d s = .next (s.setResponse ⟨0, d⟩) := rfl

theorem raiseFault_eq (f : FaultCode) (s : State) :
    raiseFault f s = .next ((s.setFault f).setResponse ⟨f.code, 0⟩) := rfl

theorem answerHalted_eq (f : FaultCode) (s : State) :
    answerHalted f s = .next (s.setResponse ⟨f.code, 0⟩) := rfl

/-! ### The wrapper (R201) -/

/-- A block that has never seen rst executes nothing (R234). -/
theorem runCommand_of_not_started {body : State → Result} {s : State} (h : s.started = false) :
    runCommand body s = .fault .notStarted := by
  simp [runCommand, h]

/-- A halted block answers its stored code (R202). -/
theorem runCommand_of_halted {body : State → Result} {s : State} {f : FaultCode}
    (hs : s.started = true) (hf : s.fault = some f) :
    runCommand body s = .next (s.setResponse ⟨f.code, 0⟩) := by
  simp [runCommand, hs, hf, answerHalted]

/-- Otherwise the command runs. -/
theorem runCommand_of_ready {body : State → Result} {s : State}
    (hs : s.started = true) (hf : s.fault = none) : runCommand body s = body s := by
  simp [runCommand, hs, hf]

/-- Everything a wrapped command can do when it answers a next state. -/
theorem runCommand_next_cases {body : State → Result} {s t : State}
    (h : runCommand body s = .next t) :
    s.started = true ∧
      ((∃ f, s.fault = some f ∧ t = s.setResponse ⟨f.code, 0⟩) ∨
        (s.fault = none ∧ body s = .next t)) := by
  cases hs : s.started with
  | false => rw [runCommand_of_not_started hs] at h; cases h
  | true =>
    cases hf : s.fault with
    | some f =>
      rw [runCommand_of_halted hs hf] at h
      cases h
      exact ⟨rfl, .inl ⟨f, rfl, rfl⟩⟩
    | none => exact ⟨rfl, .inr ⟨rfl, by rwa [runCommand_of_ready hs hf] at h⟩⟩

/-! ### The port -/

theorem takeInput_nil {s : State} (h : s.port = []) : takeInput s = none := by
  simp [takeInput, h]

theorem takeInput_cons {s : State} {i : PortInput} {rest : List PortInput}
    (h : s.port = i :: rest) : takeInput s = some (i, s.setPort rest) := by
  simp [takeInput, h]

/-- Everything a step can do: nothing is presented, rst is asserted, an illegal word, or a command. -/
theorem step_cases (s : State) :
    (s.port = [] ∧ step s = .next s) ∨
    (∃ rest, s.port = .rst :: rest ∧ step s = .next (s.setPort rest).applyRst) ∨
    (∃ w rest r, s.port = .cmd w :: rest ∧ decodeWord w = .error r ∧
      step s = illegalCommand (s.setPort rest)) ∨
    (∃ w rest i, s.port = .cmd w :: rest ∧ decodeWord w = .ok i ∧
      step s = exec i (s.setPort rest)) := by
  match hp : s.port with
  | [] => exact .inl ⟨rfl, by simp [step, takeInput_nil hp, idle]⟩
  | .rst :: rest => exact .inr (.inl ⟨rest, rfl, by simp [step, takeInput_cons hp, assertRst]⟩)
  | .cmd w :: rest =>
    cases hd : decodeWord w with
    | error r =>
      exact .inr (.inr (.inl ⟨w, rest, r, rfl, hd, by simp [step, takeInput_cons hp, hd]⟩))
    | ok i =>
      exact .inr (.inr (.inr ⟨w, rest, i, rfl, hd, by simp [step, takeInput_cons hp, hd]⟩))

/-! ### The cursor -/

/-- Below 40 the cursor advances by exactly 1 (R123). -/
theorem nextCursor_val {k : Fin 41} (h : k.val ≠ 40) : (nextCursor k).val = k.val + 1 := by
  have hk : k.val < 40 := by omega
  simp [nextCursor, hk]

/-- "Complete" is `cursor = 40` (R28). -/
theorem complete_iff (k : Fin 41) : complete k = true ↔ k.val = 40 := by simp [complete]

/-! ### The frame buffer -/

/-- The assigned bit takes the value and every other bit stays (R124). -/
theorem getLsbD_assignBit {w : Nat} (v : BitVec w) {k : Nat} (hk : k < w) (b : Bool) (j : Nat) :
    (assignBit v k b).getLsbD j = if j = k then b else v.getLsbD j := by
  cases b <;> by_cases hj : j = k
  · subst hj; simp [assignBit]
  · by_cases hw : j < w
    · simp [assignBit, hj, hw]
    · simp [assignBit, hj, BitVec.getLsbD_of_ge v j (by omega)]
  · subst hj; simp [assignBit, hk]
  · have : ¬ k = j := fun h => hj h.symm
    simp [assignBit, hj, this]

/-- The frame bits by field (R23, R24, R25). -/
theorem frameBit_eq (s : State) (i : Fin 40) :
    frameBit s i =
      if i.val ≤ 15 then s.H.getLsbD (15 - i.val)
      else if i.val ≤ 31 then s.T.getLsbD (31 - i.val)
      else s.C.getLsbD (39 - i.val) := by
  have hi := i.isLt
  unfold frameBit frame40
  split_ifs with h1 h2
  · rw [BitVec.getLsbD_append, BitVec.getLsbD_append, if_neg (by omega), if_neg (by omega)]
    congr 1; omega
  · rw [BitVec.getLsbD_append, BitVec.getLsbD_append, if_neg (by omega), if_pos (by omega)]
    congr 1; omega
  · rw [BitVec.getLsbD_append, if_pos (by omega)]

/-- APPEND's write for a humidity position. -/
theorem writeFrameBit_humidity {i : Nat} (h : i ≤ 15) (b : Bool) (s : State) :
    writeFrameBit i b s = { s with H := assignBit s.H (15 - i) b } := by
  simp [writeFrameBit, h]

/-- APPEND's write for a temperature position. -/
theorem writeFrameBit_temperature {i : Nat} (h : 16 ≤ i) (h' : i ≤ 31) (b : Bool) (s : State) :
    writeFrameBit i b s = { s with T := assignBit s.T (31 - i) b } := by
  simp [writeFrameBit, h', show ¬ i ≤ 15 by omega]

/-- APPEND's write for a checksum position. -/
theorem writeFrameBit_checksum {i : Nat} (h : 32 ≤ i) (b : Bool) (s : State) :
    writeFrameBit i b s = { s with C := assignBit s.C (39 - i) b } := by
  simp [writeFrameBit, show ¬ i ≤ 15 by omega, show ¬ i ≤ 31 by omega]

/-- `writeFrameBit k b` gives frame bit `k` the value `b` and leaves every other frame bit (R121, R124). -/
theorem frameBit_writeFrameBit (s : State) {k : Nat} (hk : k < 40) (b : Bool) (j : Fin 40) :
    frameBit (writeFrameBit k b s) j = if j.val = k then b else frameBit s j := by
  have hj := j.isLt
  rw [frameBit_eq, frameBit_eq]
  rcases Nat.lt_or_ge k 16 with h | h
  · rw [writeFrameBit_humidity (by omega)]
    simp only [getLsbD_assignBit _ (show 15 - k < 16 by omega)]
    split_ifs <;> first | rfl | omega
  · rcases Nat.lt_or_ge k 32 with h' | h'
    · rw [writeFrameBit_temperature h (by omega)]
      simp only [getLsbD_assignBit _ (show 31 - k < 16 by omega)]
      split_ifs <;> first | rfl | omega
    · rw [writeFrameBit_checksum h']
      simp only [getLsbD_assignBit _ (show 39 - k < 8 by omega)]
      split_ifs <;> first | rfl | omega

/-! ### Decoding -/

/-- What a bare opcode accepts. -/
theorem decodeBare_eq_ok {w : CmdWord} {i j : Instr} :
    decodeBare w i = .ok j ↔ w.extractLsb' 3 29 = 0 ∧ i = j := by
  unfold decodeBare; split_ifs with h <;> simp_all

/-- What APPEND's opcode accepts. -/
theorem decodeAppend_eq_ok {w : CmdWord} {j : Instr} :
    decodeAppend w = .ok j ↔ w.extractLsb' 4 28 = 0 ∧ .append (bField w) = j := by
  unfold decodeAppend; split_ifs with h <;> simp_all

/-- What CLASSIFY's opcode accepts. -/
theorem decodeClassify_eq_ok {w : CmdWord} {j : Instr} :
    decodeClassify w = .ok j ↔
      bField w = false ∧ (phaseField w).toNat ≤ 5 ∧ .classify (phaseField w) (tField w) = j := by
  unfold decodeClassify; split_ifs with h h' <;> simp [h] <;> omega

/-- Everything the decoder accepts, by opcode (R83). -/
theorem decodeWord_ok_cases {w : CmdWord} {i : Instr} (h : decodeWord w = .ok i) :
    rsvField w = 0 ∧
      (((opField w).toNat = 0 ∧ w.extractLsb' 3 29 = 0 ∧ i = .reset) ∨
       ((opField w).toNat = 1 ∧ w.extractLsb' 4 28 = 0 ∧ i = .append (bField w)) ∨
       ((opField w).toNat = 2 ∧ w.extractLsb' 3 29 = 0 ∧ i = .status) ∨
       ((opField w).toNat = 3 ∧ bField w = false ∧ (phaseField w).toNat ≤ 5 ∧
         i = .classify (phaseField w) (tField w)) ∨
       ((opField w).toNat = 4 ∧ w.extractLsb' 3 29 = 0 ∧ i = .check) ∨
       ((opField w).toNat = 5 ∧ w.extractLsb' 3 29 = 0 ∧ i = .decode) ∨
       ((opField w).toNat = 6 ∧ w.extractLsb' 3 29 = 0 ∧ i = .readframe)) := by
  unfold decodeWord at h
  by_cases hr : rsvField w = 0
  · rw [if_neg (not_not.mpr hr)] at h
    refine ⟨hr, ?_⟩
    split at h <;>
      simp_all only [decodeBare_eq_ok, decodeAppend_eq_ok, decodeClassify_eq_ok, reduceCtorEq] <;>
      simp_all
  · rw [if_pos hr] at h; cases h

/-- Everything the decoder accepts is well-formed. -/
theorem decodeWord_wellFormed {w : CmdWord} {i : Instr} (h : decodeWord w = .ok i) :
    i.wellFormed = true := by
  obtain ⟨-, h | h | h | h | h | h | h⟩ := decodeWord_ok_cases h <;>
    simp_all [Instr.wellFormed]

/-- `Phase.ofCode` finds a row for the six legal codes and none for 6 and 7 (R74). -/
theorem phase_ofCode_eq_none_iff (p : BitVec 3) : Phase.ofCode p = none ↔ 6 ≤ p.toNat := by
  revert p; decide

end Sys2Proof.Machine
end

