-- ==== Sys2Proof/Laws/Exec.lean ====
section
/-! SUPPORT. What `exec` can do, said once for all commands: on a running block, on a halted one, on one that has never
seen rst; and the inversion of a next state, which every frame and invariant goes through. -/

namespace Sys2Proof.Machine

/-- The state a completed command leaves, but for the response. -/
def completed : Instr → State → State
  | .reset, s => s.clearFrame
  | .append b, s => appended b s
  | .status, s => s
  | .classify _ _, s => s
  | .check, s => s.setChk (chkOfPass (passes s))
  | .decode, s => s
  | .readframe, s => s

@[simp] theorem completed_reset (s : State) : completed .reset s = s.clearFrame := rfl

@[simp] theorem completed_append (b : Bool) (s : State) : completed (.append b) s = appended b s := rfl

@[simp] theorem completed_status (s : State) : completed .status s = s := rfl

@[simp] theorem completed_classify (p : BitVec 3) (t : BitVec 16) (s : State) :
    completed (.classify p t) s = s := rfl

@[simp] theorem completed_check (s : State) :
    completed .check s = s.setChk (chkOfPass (passes s)) := rfl

@[simp] theorem completed_decode (s : State) : completed .decode s = s := rfl

@[simp] theorem completed_readframe (s : State) : completed .readframe s = s := rfl

/-! ### On a running block, command by command -/

theorem exec_reset {s : State} (h : s.Ready) : exec .reset s = respond 0 s.clearFrame := by
  simp only [exec, execReset, runCommand_of_ready h.1 h.2]

theorem exec_append_of_incomplete {s : State} (h : s.Ready) (b : Bool) (hc : s.cursor.val ≠ 40) :
    exec (.append b) s = respond (appendData (nextCursor s.cursor)) (appended b s) := by
  have hc' : complete s.cursor ≠ true := mt (complete_iff _).mp hc
  simp only [exec, execAppend, runCommand_of_ready h.1 h.2, if_neg hc']

theorem exec_append_of_complete {s : State} (h : s.Ready) (b : Bool) (hc : s.cursor.val = 40) :
    exec (.append b) s = raiseFault .appendOverflow s := by
  simp only [exec, execAppend, runCommand_of_ready h.1 h.2, if_pos ((complete_iff _).mpr hc)]

theorem exec_status {s : State} (h : s.Ready) :
    exec .status s = respond (statusData s.cursor s.chk) s := by
  simp only [exec, execStatus, runCommand_of_ready h.1 h.2]

theorem exec_classify_of_row {s : State} (h : s.Ready) {p : BitVec 3} {q : Phase} (t : BitVec 16)
    (hp : Phase.ofCode p = some q) :
    exec (.classify p t) s =
      respond (classifyData (classify (elapsed t) (s.phaseTable.row q) q)) s := by
  simp only [exec, execClassify, runCommand_of_ready h.1 h.2, hp]

theorem exec_classify_of_no_row {s : State} (h : s.Ready) {p : BitVec 3} (t : BitVec 16)
    (hp : Phase.ofCode p = none) : exec (.classify p t) s = raiseFault .illegalCmd s := by
  simp only [exec, execClassify, runCommand_of_ready h.1 h.2, hp]

theorem exec_check_of_complete {s : State} (h : s.Ready) (hc : s.cursor.val = 40) :
    exec .check s =
      respond (checkData (checksum s.H s.T) s.C (passes s))
        (s.setChk (chkOfPass (passes s))) := by
  simp only [exec, execCheck, runCommand_of_ready h.1 h.2, if_pos ((complete_iff _).mpr hc)]

theorem exec_check_of_incomplete {s : State} (h : s.Ready) (hc : s.cursor.val ≠ 40) :
    exec .check s = raiseFault .checkIncomplete s := by
  have hc' : complete s.cursor ≠ true := mt (complete_iff _).mp hc
  simp only [exec, execCheck, runCommand_of_ready h.1 h.2, if_neg hc']

theorem exec_decode_of_pass {s : State} (h : s.Ready) (hc : s.chk = .pass) :
    exec .decode s = respond (readingData s.H s.T) s := by
  simp only [exec, execDecode, runCommand_of_ready h.1 h.2, if_pos hc]

theorem exec_decode_of_not_pass {s : State} (h : s.Ready) (hc : s.chk ≠ .pass) :
    exec .decode s = raiseFault .decodeUnvalidated s := by
  simp only [exec, execDecode, runCommand_of_ready h.1 h.2, if_neg hc]

theorem exec_readframe {s : State} (h : s.Ready) :
    exec .readframe s = respond (readFrameData (frame40 s) s.cursor s.chk) s := by
  simp only [exec, execReadframe, runCommand_of_ready h.1 h.2]

/-! ### For every command -/

/-- A halted block answers its stored code to every command (R202). -/
theorem exec_of_halted {s : State} {f : FaultCode} (h : s.Halted f) (i : Instr) :
    exec i s = .next (s.setResponse ⟨f.code, 0⟩) := by
  cases i <;> simp only [exec, execReset, execAppend, execStatus, execClassify, execCheck, execDecode,
    execReadframe, runCommand_of_halted h.1 h.2]

/-- A block that has never seen rst executes no command (R234). -/
theorem exec_of_not_started {s : State} (h : s.started = false) (i : Instr) :
    exec i s = .fault .notStarted := by
  cases i <;> simp only [exec, execReset, execAppend, execStatus, execClassify, execCheck, execDecode,
    execReadframe, runCommand_of_not_started h]

/-- Everything `exec` can do when it answers a next state: a halted block's answer, a block fault taken, or the command
completed, and then the command's own condition for completing holds. -/
theorem exec_next_cases {i : Instr} {s t : State} (h : exec i s = .next t) :
    s.started = true ∧
      ((∃ f, s.fault = some f ∧ t = s.setResponse ⟨f.code, 0⟩) ∨
       (s.fault = none ∧ ∃ f : FaultCode, t = (s.setFault f).setResponse ⟨f.code, 0⟩) ∨
       (s.fault = none ∧ (∃ d, t = (completed i s).setResponse ⟨0, d⟩) ∧
         (∀ b, i = .append b → s.cursor.val ≠ 40) ∧ (i = .check → s.cursor.val = 40) ∧
         (i = .decode → s.chk = .pass))) := by
  cases hs : s.started with
  | false => rw [exec_of_not_started hs] at h; cases h
  | true =>
    cases hf : s.fault with
    | some f =>
      rw [exec_of_halted ⟨hs, hf⟩] at h
      cases h
      exact ⟨rfl, .inl ⟨f, rfl, rfl⟩⟩
    | none =>
      refine ⟨rfl, .inr ?_⟩
      have hr : s.Ready := ⟨hs, hf⟩
      cases i with
      | append b =>
        by_cases hc : s.cursor.val = 40
        · rw [exec_append_of_complete hr b hc] at h
          cases h
          exact .inl ⟨rfl, _, rfl⟩
        · rw [exec_append_of_incomplete hr b hc] at h
          cases h
          exact .inr ⟨rfl, ⟨_, rfl⟩, fun _ _ => hc, nofun, nofun⟩
      | check =>
        by_cases hc : s.cursor.val = 40
        · rw [exec_check_of_complete hr hc] at h
          cases h
          exact .inr ⟨rfl, ⟨_, rfl⟩, nofun, fun _ => hc, nofun⟩
        · rw [exec_check_of_incomplete hr hc] at h
          cases h
          exact .inl ⟨rfl, _, rfl⟩
      | decode =>
        by_cases hc : s.chk = .pass
        · rw [exec_decode_of_pass hr hc] at h
          cases h
          exact .inr ⟨rfl, ⟨_, rfl⟩, nofun, nofun, fun _ => hc⟩
        · rw [exec_decode_of_not_pass hr hc] at h
          cases h
          exact .inl ⟨rfl, _, rfl⟩
      | classify p t =>
        cases hp : Phase.ofCode p with
        | none =>
          rw [exec_classify_of_no_row hr t hp] at h
          cases h
          exact .inl ⟨rfl, _, rfl⟩
        | some q =>
          rw [exec_classify_of_row hr t hp] at h
          cases h
          exact .inr ⟨rfl, ⟨_, rfl⟩, nofun, nofun, nofun⟩
      | reset =>
        rw [exec_reset hr] at h
        cases h
        exact .inr ⟨rfl, ⟨_, rfl⟩, nofun, nofun, nofun⟩
      | status =>
        rw [exec_status hr] at h
        cases h
        exact .inr ⟨rfl, ⟨_, rfl⟩, nofun, nofun, nofun⟩
      | readframe =>
        rw [exec_readframe hr] at h
        cases h
        exact .inr ⟨rfl, ⟨_, rfl⟩, nofun, nofun, nofun⟩

/-- A step at an illegal word. -/
theorem step_of_illegal {s : State} {w : CmdWord} {rest : List PortInput} {r : IllegalWord}
    (h : s.port = .cmd w :: rest) (hd : decodeWord w = .error r) :
    step s = illegalCommand (s.setPort rest) := by
  simp only [step, takeInput_cons h, hd]

/-- A step that asserts rst (R230). -/
theorem step_of_rst {s : State} {rest : List PortInput} (h : s.port = .rst :: rest) :
    step s = .next (s.setPort rest).applyRst := by
  simp only [step, takeInput_cons h, assertRst]

end Sys2Proof.Machine
end

