-- ==== Sys2Proof/Laws/PerInstr.lean ====
section
/-! SUPPORT. Statements made for every command, one lemma per constructor. -/

namespace Sys2Proof.Laws.OpcodeRow

/-- The word of a well-formed command has the fixed bits of its row of the opcode table (30_encoding.md R73). -/
def Statement (i : Instr) : Prop := i.wellFormed = true → encode i &&& i.mask = i.matchBits

theorem reset : Statement .reset := by unfold Statement; decide

theorem append (b : Bool) : Statement (.append b) := by unfold Statement; revert b; decide

theorem status : Statement .status := by unfold Statement; decide

theorem classify (phase : BitVec 3) (t : BitVec 16) : Statement (.classify phase t) := by
  intro _
  ext k hk
  simp only [encode, assembleWord, Instr.mask, Instr.matchBits, BitVec.getElem_and,
    BitVec.getElem_append]
  interval_cases k <;> simp

theorem check : Statement .check := by unfold Statement; decide

theorem decode : Statement .decode := by unfold Statement; decide

theorem readframe : Statement .readframe := by unfold Statement; decide

end Sys2Proof.Laws.OpcodeRow
end

