-- ==== Sys2Proof/Laws/Values.lean ====
section
/-! SUPPORT. The values of the operand forms and of the response codes, as numbers. -/

namespace Sys2Proof.Machine

/-- A concatenation as a number. -/
theorem toNat_append_eq {w v : Nat} (x : BitVec w) (y : BitVec v) :
    (x ++ y).toNat = x.toNat * 2 ^ v + y.toNat := by
  rw [BitVec.toNat_append, ← Nat.shiftLeft_add_eq_or_of_lt y.isLt, Nat.shiftLeft_eq]

/-- A field of a response as a number. -/
theorem toNat_field (d : RData) (lo width : Nat) :
    (d.extractLsb' lo width).toNat = d.toNat / 2 ^ lo % 2 ^ width := by
  simp [BitVec.extractLsb'_toNat, Nat.shiftRight_eq_div_pow]

/-- `mag` is the value with bit 15 cleared (R171). -/
theorem magnitude_eq (t : BitVec 16) : magnitude t = t.toNat % 2 ^ 15 := by
  simp [magnitude, BitVec.extractLsb'_toNat]

/-- `mag` is in 0..32767 (R171). -/
theorem magnitude_lt (t : BitVec 16) : magnitude t < 2 ^ 15 := (t.extractLsb' 0 15).isLt

/-- The sign flag is the top bit (R171). -/
theorem signFlag_eq (t : BitVec 16) : signFlag t = decide (t.toNat / 2 ^ 15 = 1) := by
  have ht := t.isLt
  rw [signFlag, ← BitVec.testBit_toNat, Nat.testBit, Nat.shiftRight_eq_div_pow]
  have h : t.toNat / 2 ^ 15 = 0 ∨ t.toNat / 2 ^ 15 = 1 := by omega
  rcases h with h | h <;> rw [h] <;> rfl

/-- No fault code is 0 (R200). -/
theorem faultCode_ne_zero (f : FaultCode) : f.code ≠ 0 := by cases f <;> decide

/-- The cursor fits its 6 bits (R20). -/
theorem cursorBits_toNat (k : Fin 41) : (cursorBits k).toNat = k.val := by
  have hk := k.isLt
  simp only [cursorBits, BitVec.toNat_ofNat]
  omega

end Sys2Proof.Machine
end

