-- ==== Sys2Proof/Tests/Slice0.lean ====
section
/-! SUPPORT. Tests: words written out from the encoding, one step on a small state per vector of 95_test_vectors.md, and
for each statement with hypotheses a named state and operands that meet them all together (`witness_…`). -/

namespace Sys2Proof.Tests

open Sys2Proof.Machine

/-! ### Small states -/

/-- What a command answered. -/
def answer : Result → Option Response
  | .next s => s.response
  | .fault _ => none
  | .refused _ => none

/-- What a command left, for comparing a register. -/
def left {α : Type} (f : State → α) : Result → Option α
  | .next s => some (f s)
  | .fault _ => none
  | .refused _ => none

/-- A complete frame. -/
def loaded (h t : BitVec 16) (c : BitVec 8) (v : Chk) : State :=
  { State.reset with H := h, T := t, C := c, cursor := 40, chk := v }

/-- A block halted with a code. -/
def halted (f : FaultCode) : State := { State.reset with fault := some f }

/-- A block that has never seen rst. -/
def unstarted : State := { State.reset with started := false, H := 0x1234 }

/-- The block after rst with some inputs to come. -/
def sent (p : List PortInput) : State := { State.reset with port := p }

/-- The frame of the source's scenario (95 L1-1), written into a fresh block's port. -/
def sending : State := sent (appendInputs (arrivalBits 0x028D00FB8A))

/-! ### WellFormed -/

theorem test_wellFormed_refuses_phase_6 : (Instr.classify 6 0).wellFormed = false := by decide

theorem test_wellFormed_refuses_phase_7 : (Instr.classify 7 65535).wellFormed = false := by decide

theorem test_wellFormed_accepts_phase_5 : (Instr.classify 5 0).wellFormed = true := by decide

/-! ### Decoding: words written out bit by bit from R71 (t, rsv, phase, b, op) -/

theorem test_decode_reset :
    decodeWord 0b0000000000000000_000000000_000_0_000 = .ok .reset := by decide

theorem test_decode_append_1 :
    decodeWord 0b0000000000000000_000000000_000_1_001 = .ok (.append true) := by decide

theorem test_decode_append_0 :
    decodeWord 0b0000000000000000_000000000_000_0_001 = .ok (.append false) := by decide

theorem test_decode_status :
    decodeWord 0b0000000000000000_000000000_000_0_010 = .ok .status := by decide

-- t = 0x0028 = 40, phase 4 (R84: CLASSIFY BIT_HIGH, 40 = 0x00280043).
theorem test_decode_classify :
    decodeWord 0b0000000000101000_000000000_100_0_011 = .ok (.classify 4 40) := by decide

theorem test_decode_check :
    decodeWord 0b0000000000000000_000000000_000_0_100 = .ok .check := by decide

theorem test_decode_decode :
    decodeWord 0b0000000000000000_000000000_000_0_101 = .ok .decode := by decide

theorem test_decode_readframe :
    decodeWord 0b0000000000000000_000000000_000_0_110 = .ok .readframe := by decide

-- 95 L2-E: the illegal words.
theorem test_decode_illegal_words :
    decodeWord 0x00000007 = .error .opcode7 ∧ decodeWord 0x00000080 = .error .reservedField ∧
    decodeWord 0x0000000B = .error .unusedField ∧ decodeWord 0x00000063 = .error .phaseRow ∧
    decodeWord 0x00000073 = .error .phaseRow ∧ decodeWord 0x00000010 = .error .unusedField ∧
    decodeWord 0x00010000 = .error .unusedField ∧ decodeWord 0x00010001 = .error .unusedField ∧
    decodeWord 0x00000011 = .error .unusedField ∧ decodeWord 0x00000008 = .error .unusedField ∧
    decodeWord 0x00010002 = .error .unusedField := by decide

-- 30 R84, 95 L1-3 and L2-C: words from operands.
theorem test_encode_words :
    encode (.append true) = 0x00000009 ∧ encode (.classify 3 71) = 0x00470033 ∧
    encode (.classify 5 110) = 0x006E0053 ∧ encode (.classify 0 65535) = 0xFFFF0003 := by decide

theorem test_decodeTableWord :
    decodeTableWord 32 0x00460043 = some (.classify 4 70) ∧ decodeTableWord 32 0x63 = none := by
  decide

-- 30 R73: no word matches two rows of the opcode table.
theorem test_opcode_rows_disjoint :
    ([Instr.reset, .append false, .status, .classify 0 0, .check, .decode, .readframe]).Pairwise
      (fun i j => (i.mask &&& j.mask) &&& (i.matchBits ^^^ j.matchBits) ≠ 0) := by decide

/-! ### The assembler (R81, R82) -/

theorem test_assemble_classify : assembleLine "CLASSIFY BIT_HIGH, 40" = some 0x00280043 := by decide

theorem test_assemble_classify_hex : assembleLine "CLASSIFY 5, 0x6E" = some 0x006E0053 := by decide

theorem test_assemble_append : assembleLine "APPEND 1" = some 0x00000009 := by decide

theorem test_assemble_pseudo : assembleLine "CLASSIFYBIT 41" = some 0x00290043 := by decide

theorem test_assemble_rejects :
    assembleLine "CLASSIFY 6, 40" = none ∧ assembleLine "CLASSIFY 4, 65536" = none ∧
    assembleLine "APPEND 2" = none ∧ assembleLine "JUMP" = none := by decide

/-! ### One step of each command -/

-- 95 L2-A: 0x8000/0/0/1/NONE/0, RESET gives (0, 0) and the fresh registers.
theorem test_reset :
    left (fun s => (s.H, s.cursor, s.response))
      (exec .reset { State.reset with H := 0x8000, cursor := 1 }) =
      some (0, 0, some ⟨0, 0⟩) := by decide

-- 41 R120: RESET leaves `fault`; halted, it is ignored (95 P3).
theorem test_reset_halted :
    left (fun s => (s.cursor, s.response))
      (exec .reset { loaded 0x028D 0xFB 0x90 .fail with fault := some .decodeUnvalidated }) =
      some (40, some ⟨4, 0⟩) := by decide

-- 95 L2-A, row 17: the sign flag is the first bit of T.
theorem test_append_sign_flag :
    left (fun s => (s.H, s.T, s.cursor, s.response))
      (exec (.append true) { State.reset with H := 0xFFFF, cursor := 16 }) =
      some (0xFFFF, 0x8000, 17, some ⟨0, 0x11⟩) := by decide

-- 95 L2-A, row 40: the last bit, complete.
theorem test_append_last_bit :
    left (fun s => (s.C, s.cursor, s.response))
      (exec (.append true) { State.reset with C := 0xFE, cursor := 39 }) =
      some (0xFF, 40, some ⟨0, 0x68⟩) := by decide

-- 41 R125: rdata = 0x168.
theorem test_status : answer (exec .status (loaded 0x028D 0xFB 0x8A .pass)) = some ⟨0, 0x168⟩ := by
  decide

-- 95 L2-C: BIT_HIGH at 101 is TIMEOUT with DataTimeout.
theorem test_classify_timeout : answer (exec (.classify 4 101) State.reset) = some ⟨0, 0x42⟩ := by
  decide

-- 95 L2-C, the non-default table (120, 100): 110 is TIMEOUT.
theorem test_classify_other_table :
    answer (exec (.classify 4 110)
      (State.resetWith { PhaseTable.defaults with bitHigh := ⟨120, 100⟩ })) =
      some ⟨0, 0x42⟩ := by decide

-- 95 L1-3: 39 and 40 SHORT, 41 LONG.
theorem test_classify_tie :
    (classify 39 ⟨40, 100⟩ .bitHigh).1 = .short ∧ (classify 40 ⟨40, 100⟩ .bitHigh).1 = .short ∧
    (classify 41 ⟨40, 100⟩ .bitHigh).1 = .long := by decide

-- 95 L2-K: 1020 mod 256 = 252, PASS.
theorem test_check_wraps :
    left (fun s => (s.chk, s.response)) (exec .check (loaded 0xFFFF 0xFFFF 0xFC .none)) =
      some (.pass, some ⟨0, 0x1FCFC⟩) := by decide

-- 95 L1-1x: the source's literal checksum 0x90 fails.
theorem test_check_mismatch :
    left (fun s => (s.chk, s.response)) (exec .check (loaded 0x028D 0x00FB 0x90 .none)) =
      some (.fail, some ⟨0, 0x60908A⟩) := by decide

-- 95 L1-2: −5.0.
theorem test_decode_negative :
    answer (exec .decode (loaded 0x028D 0x8032 0x41 .pass)) = some ⟨0, 0x43FF66041⟩ := by decide

-- 95 L2-D: 0x8005 keeps the sign of −0.5.
theorem test_decode_negative_tenths :
    answer (exec .decode (loaded 0 0x8005 0x85 .pass)) = some ⟨0, 0x540000000⟩ := by decide

-- 41 R127.
theorem test_readframe :
    answer (exec .readframe (loaded 0x028D 0x00FB 0x8A .pass)) =
      some ⟨0, 0x000068028D00FB8A⟩ := by decide

-- 95 P2: a partial frame.
theorem test_readframe_partial :
    answer (exec .readframe { State.reset with H := 0x4000, cursor := 2 }) =
      some ⟨0, 0x24000000000⟩ := by decide

/-! ### The step -/

theorem test_step_illegal_word :
    left (fun s => (s.fault, s.response, s.port)) (step (sent [.cmd 0x00000063, .rst])) =
      some (some .illegalCmd, some ⟨1, 0⟩, [.rst]) := by decide

-- 60 R203: a halted block answers its stored code for an illegal word too.
theorem test_step_halted_illegal_word :
    answer (step { halted .appendOverflow with port := [.cmd 7] }) = some ⟨2, 0⟩ := by decide

theorem test_step_rst_recovers :
    left (fun s => (s.fault, s.H)) (step { halted .checkIncomplete with H := 3, port := [.rst] }) =
      some (none, 0) := by decide

theorem test_withFetchWord_runs :
    answer (step (State.reset.withFetchWord 32 0x00460043)) = some ⟨0, 1⟩ := by decide

/-! ### Witnesses: the hypotheses of each statement, met together -/

-- StepRunsDecodedInstruction, FaultPriority.
theorem witness_legal_word :
    (sent [.cmd 9]).port = .cmd 9 :: [] ∧ (sent [.cmd 9]).started = true ∧
    decodeWord 9 = .ok (.append true) := by decide

-- FaultWrapper: the three cases; IllegalWordsByFourGrounds' second clause.
theorem witness_wrapper_cases :
    (sent [.cmd 7]).Ready ∧ decodeWord 7 = .error .opcode7 ∧
    (halted .illegalCmd).fault = some .illegalCmd ∧
    (sent [.cmd 9]).fault = none ∧ decodeWord 9 = .ok (.append true) := by decide

-- FaultPriority: each command's own condition, at and beside its boundary.
theorem witness_priority_conditions :
    (loaded 0 0 0 .none).cursor = 40 ∧ ({ State.reset with cursor := 39 } : State).cursor ≠ 40 ∧
    (loaded 0 0 0 .pass).chk = .pass ∧ (loaded 0 0 0 .fail).chk ≠ .pass := by decide

-- HaltedBlockAnswersStoredCode, AnswersStoredCode, OnlyRstClearsFault, RstAgainstReset.
theorem witness_halted :
    (halted .decodeUnvalidated).Halted .decodeUnvalidated ∧
    ({ halted .illegalCmd with port := [.cmd 0] } : State).Halted .illegalCmd ∧
    ({ halted .illegalCmd with port := [.rst] } : State).Halted .illegalCmd := by decide

theorem witness_fault_cleared :
    ∃ t, step { halted .illegalCmd with port := [.rst] } = .next t ∧ t.fault ≠ some .illegalCmd :=
  ⟨_, rfl, by decide⟩

theorem witness_equal_fault_codes :
    FaultCode.illegalCmd.code = FaultCode.illegalCmd.code := by decide

-- StepNeverStalls.
theorem witness_started : (sent [.cmd 0]).started = true ∧ (sent [.rst]).started = true := by decide

-- IdleStepHoldsState.
theorem witness_idle : State.reset.port = [] := by decide

-- UnstartedBlockExecutesNothing.
theorem witness_unstarted :
    ({ unstarted with port := [.cmd 0] } : State).started = false ∧
    ({ unstarted with port := [.rst] } : State).started = false := by decide

-- RstSetsEveryRegister: rst with more to come.
theorem witness_rst : (sent [.rst, .cmd 2]).port = .rst :: [.cmd 2] := by decide

-- RstAgainstReset, ResetClearsFrame, CommandSideEffects: RESET and rst answer next states.
theorem witness_reset_and_rst :
    State.reset.Ready ∧ (∃ u v, assertRst State.reset = .next u ∧ assertRst u = .next v) ∧
    ∃ t, exec .reset State.reset = .next t :=
  ⟨by decide, ⟨_, _, rfl, rfl⟩, ⟨_, rfl⟩⟩

-- StepKeepsInvariant, ReadingOnlyFromValidatedFrame: a validated frame meets the invariant.
theorem witness_invariant :
    (loaded 0x028D 0x00FB 0x8A .pass).Inv ∧
    ∃ t d, exec .decode (loaded 0x028D 0x00FB 0x8A .pass) = .next t ∧
      t.response = some ⟨0, d⟩ :=
  ⟨by decide, _, _, rfl, rfl⟩

theorem witness_invariant_step :
    (sent [.cmd 1]).Inv ∧ ∃ t, step (sent [.cmd 1]) = .next t := ⟨by decide, _, rfl⟩

-- NoStepWritesPhaseTable, RegistersChangeOnlyByTheirWriters: each register changes in some command.
theorem witness_changes :
    left (·.H) (exec (.append true) { State.reset with cursor := 15 }) = some 1 ∧
    left (·.T) (exec (.append true) { State.reset with cursor := 31 }) = some 1 ∧
    left (·.C) (exec (.append true) { State.reset with cursor := 32 }) = some 0x80 ∧
    left (·.cursor) (exec .reset (loaded 1 1 1 .none)) = some 0 ∧
    left (·.chk) (exec .check (loaded 0 0 0 .none)) = some .pass ∧
    left (·.fault) (exec .decode State.reset) = some (some .decodeUnvalidated) := by decide

-- StepDependsOnBlockAndInput: two blocks that differ only in what comes later and what they answered.
theorem witness_same_block :
    (sent [.cmd 2]).SameBlock { sent [.cmd 2, .rst] with response := some ⟨0, 5⟩ } := by decide

theorem witness_same_block_stops :
    ({ unstarted with port := [.cmd 2] } : State).SameBlock { unstarted with port := [.cmd 2] } ∧
    step { unstarted with port := [.cmd 2] } = .fault .notStarted := ⟨by decide, rfl⟩

-- CommandSideEffects: each clause's command completes, and one that faults answers a code.
theorem witness_side_effects :
    (∃ t, exec .decode (loaded 0 0 0 .pass) = .next t ∧ t.fault = none) ∧
    (∃ t, exec .check (loaded 0 0 0 .none) = .next t ∧ t.fault = none) ∧
    (∃ t, exec (.append true) State.reset = .next t ∧ t.fault = none) ∧
    (∃ t r, exec .check State.reset = .next t ∧ t.response = some r ∧ r.rfault ≠ 0) :=
  ⟨⟨_, rfl, rfl⟩, ⟨_, rfl, rfl⟩, ⟨_, rfl, rfl⟩, ⟨_, _, rfl, rfl, by decide⟩⟩

-- ResponseShape: a code with data 0, and data without a code.
theorem witness_response_shape :
    answer (exec .decode State.reset) = some ⟨4, 0⟩ ∧
    answer (exec (.append false) State.reset) = some ⟨0, 1⟩ := by decide

-- DecodeOfEncode, EncodeOfDecode, IllegalWordsByFourGrounds' third clause.
theorem witness_wellFormed_word :
    (Instr.classify 5 65535).wellFormed = true ∧
    decodeWord 0xFFFF0053 = .ok (.classify 5 65535) := by decide

-- ResetClearsFrame's fourth clause: op 0, not the word 0.
theorem witness_op_zero : (0x00000008 : CmdWord).toNat % 8 = 0 ∧ (0x00000008 : CmdWord) ≠ 0 := by
  decide

-- PseudoInstructionExpansions: NOP answers a next state.
theorem witness_nop : ∃ t, exec (expandPseudo .nop) State.reset = .next t := ⟨_, rfl⟩

-- AppendWritesBitAndAdvances, AppendAssignsOneFrameBit: the two ends of each sub-field.
theorem witness_append_positions :
    ∀ k ∈ [0, 15, 16, 31, 32, 39],
      ({ State.reset with cursor := k } : State).Ready ∧
      ({ State.reset with cursor := k } : State).cursor.val < 40 ∧
      ({ State.reset with cursor := k } : State).UnwrittenBitsZero := by decide

theorem witness_append_next : ∃ t, exec (.append true) State.reset = .next t := ⟨_, rfl⟩

-- AppendOverflowHalts, CheckRecordsComparison (passing and not), StatusReports, ReadframeReturnsFrame.
theorem witness_complete :
    (loaded 0x028D 0xFB 0x8A .none).Ready ∧ (loaded 0x028D 0xFB 0x8A .none).cursor = 40 ∧
    byteSum 0x028D 0xFB = (0x8A : BitVec 8).toNat ∧ byteSum 0x028D 0xFB ≠ (0x90 : BitVec 8).toNat := by
  decide

theorem witness_overflow_next : ∃ t, exec (.append true) (loaded 0 0 0 .none) = .next t := ⟨_, rfl⟩

-- CompleteReportedAfterCommand: both commands, both answers.
theorem witness_complete_reported :
    (∃ t, exec (.append true) { State.reset with cursor := 39 } = .next t ∧
      t.response = some ⟨0, 0x68⟩) ∧
    (∃ t, exec .status State.reset = .next t ∧ t.response = some ⟨0, 0⟩) :=
  ⟨⟨_, rfl, by decide⟩, ⟨_, rfl, by decide⟩⟩

-- ReadframeReturnsFrame's fourth clause: a partial frame, at its first and last unwritten bit.
theorem witness_unwritten :
    ({ State.reset with H := 0x4000, cursor := 2 } : State).UnwrittenBitsZero ∧
    (2 : Fin 41).val ≤ (2 : Fin 40).val ∧ (2 : Fin 41).val ≤ (39 : Fin 40).val ∧
    ∃ t d, exec .readframe { State.reset with H := 0x4000, cursor := 2 } = .next t ∧
      t.response = some ⟨0, d⟩ :=
  ⟨by decide, by decide, by decide, _, _, rfl, rfl⟩

-- FortyAppendsBuildFrame: the source's frame, and a 41st APPEND to come.
theorem witness_forty_appends :
    sending.Ready ∧ sending.cursor = 0 ∧ sending.chk = .none ∧
    sending.port = appendInputs (arrivalBits 0x028D00FB8A) ++ [] ∧
    (sent (appendInputs (arrivalBits 0) ++ [.cmd (encode (.append true))])).Ready :=
  ⟨by decide, rfl, rfl, by simp [sending, sent], by decide⟩

-- WholeReadRoundTrip: the source's frame with its corrected checksum.
theorem witness_whole_read :
    byteSum 0x028D 0x00FB = (0x8A : BitVec 8).toNat ∧
    (sent (appendInputs (arrivalBits (0x028D#16 ++ 0x00FB#16 ++ 0x8A#8)) ++
      .cmd (encode .check) :: .cmd (encode .decode) :: [])).Ready ∧
    (sent (appendInputs (arrivalBits (0x028D#16 ++ 0x00FB#16 ++ 0x8A#8)) ++
      .cmd (encode .check) :: .cmd (encode .decode) :: [])).cursor = 0 ∧
    (sent (appendInputs (arrivalBits (0x028D#16 ++ 0x00FB#16 ++ 0x8A#8)) ++
      .cmd (encode .check) :: .cmd (encode .decode) :: [])).chk = .none := by decide

-- ClassifyComputesClass, TiesAreShorter, NoLongWhenThresholdReachesBound, ElapsedTimeEnds: rows at both ends.
theorem witness_phase_rows :
    State.reset.Ready ∧ (0, ⟨50, 50⟩, 1) ∈ phaseRows State.reset.phaseTable ∧
    (4, ⟨40, 100⟩, 4) ∈ phaseRows State.reset.phaseTable ∧
    (5, ⟨110, 170⟩, 4) ∈ phaseRows State.reset.phaseTable := by decide

theorem witness_ties :
    (∃ u, exec (.classify 4 40) State.reset = .next u) ∧
    (40#16).toNat = (PhaseRow.mk 40 100).thr ∧ (PhaseRow.mk 40 100).thr ≤ (PhaseRow.mk 40 100).bound ∧
    (∃ u, exec (.classify 4 100) State.reset = .next u) ∧
    (100#16).toNat = (PhaseRow.mk 40 100).bound := ⟨⟨_, rfl⟩, by decide, by decide, ⟨_, rfl⟩, by decide⟩

theorem witness_no_long :
    (∃ u d, exec (.classify 3 70) State.reset = .next u ∧ u.response = some ⟨0, d⟩) ∧
    State.reset.phaseTable = PhaseTable.defaults ∧ (3#3).toNat ≤ 3 ∧
    (PhaseRow.mk 120 100).bound ≤ (PhaseRow.mk 120 100).thr :=
  ⟨⟨_, _, rfl, rfl⟩, by decide, by decide, by decide⟩

theorem witness_saturated : (PhaseRow.mk 110 170).bound < 65535 := by decide

-- ClassifyIllegalForms: phase 6, phase 7, and b = 1 with a legal phase.
theorem witness_classify_illegal :
    (sent [.cmd (0#16 ++ 0#9 ++ 6#3 ++ BitVec.ofBool false ++ 3#3)]).Ready ∧ 6 ≤ (6#3).toNat ∧
    6 ≤ (7#3).toNat ∧
    (sent [.cmd (0#16 ++ 0#9 ++ 0#3 ++ BitVec.ofBool true ++ 3#3)]).Ready := by decide

-- ClassifyIndependentOfState: two blocks with one table and different frames.
theorem witness_two_blocks :
    State.reset.Ready ∧ (loaded 0xFFFF 1 2 .fail).Ready ∧
    State.reset.phaseTable = (loaded 0xFFFF 1 2 .fail).phaseTable ∧ (5#3).toNat ≤ 5 := by decide

-- BitPhasesDisagree: the default rows, at both ends of h.
theorem witness_bit_phases :
    State.reset.Ready ∧ State.reset.phaseTable.bitHigh = ⟨40, 100⟩ ∧
    State.reset.phaseTable.bitCombined = ⟨110, 170⟩ ∧ (0#16).toNat + 50 < 65536 ∧
    (65485#16).toNat + 50 < 65536 := by decide

-- ErrorKindIsData, SingleBitCorruptionFails, FailingCheckKeepsFrame: a frame with one bit flipped (95 L1-5).
theorem witness_corrupted :
    byteSum (loaded 0x028D 0xFB 0x8A .pass).H (loaded 0x028D 0xFB 0x8A .pass).T =
      (loaded 0x028D 0xFB 0x8A .pass).C.toNat ∧
    frame40 (loaded 0x028C 0xFB 0x8A .none) =
      frame40 (loaded 0x028D 0xFB 0x8A .pass) ^^^ BitVec.twoPow 40 (24 : Fin 40).val ∧
    (loaded 0x028C 0xFB 0x8A .none).Ready ∧ (loaded 0x028C 0xFB 0x8A .none).cursor = 40 ∧
    byteSum 0x028C 0xFB ≠ (0x8A : BitVec 8).toNat := by decide

theorem witness_failing_check :
    ∃ t, exec .check (loaded 0x028C 0xFB 0x8A .none) = .next t ∧ t.chk = .fail ∧ t.fault = none :=
  ⟨_, rfl, by decide, by decide⟩

-- HostErrorKindsNeverProduced, ChecksumFormula's second clause.
theorem witness_error_kinds :
    (∃ u d, exec (.classify 4 101) State.reset = .next u ∧ u.response = some ⟨0, d⟩) ∧
    (∃ u d, exec .check (loaded 0 0 0 .none) = .next u ∧ u.response = some ⟨0, d⟩) :=
  ⟨⟨_, _, rfl, rfl⟩, ⟨_, _, rfl, rfl⟩⟩

-- CheckIncompleteHalts: the two ends of the incomplete cursor.
theorem witness_incomplete :
    State.reset.Ready ∧ State.reset.cursor ≠ 40 ∧
    ({ State.reset with cursor := 39 } : State).cursor ≠ 40 ∧
    ∃ t, exec .check State.reset = .next t := ⟨by decide, by decide, by decide, _, rfl⟩

-- DecodeReturnsReading: PASS, and both refused values; both signs of T.
theorem witness_decode_clauses :
    (loaded 0xFFFF 0x7FFF 0x7C .pass).Ready ∧ (loaded 0xFFFF 0x7FFF 0x7C .pass).chk = .pass ∧
    (loaded 0 0xFFFF 0xFE .pass).chk = .pass ∧ (loaded 0 0 0 .fail).chk ≠ .pass ∧
    State.reset.chk ≠ .pass := by decide

-- ReadingFieldsAreExact, ReadingRecoversFields.
theorem witness_reading :
    ∃ t d, exec .decode (loaded 0 0xFFFF 0xFE .pass) = .next t ∧ t.response = some ⟨0, d⟩ :=
  ⟨_, _, rfl, rfl⟩

-- NegativeTenthsKeepSign: magnitudes 0 and 9, with the sign and without.
theorem witness_negative_tenths :
    (loaded 0 0x8009 0 .pass).Ready ∧ (loaded 0 0x8009 0 .pass).chk = .pass ∧
    (0x8000#16).toNat % 2 ^ 15 < 10 ∧ (0x8009#16).toNat % 2 ^ 15 < 10 ∧
    (0x0000#16).toNat % 2 ^ 15 < 10 ∧ (0x0009#16).toNat % 2 ^ 15 < 10 :=
  ⟨⟨rfl, rfl⟩, rfl, by norm_num, by norm_num, by norm_num, by norm_num⟩

end Sys2Proof.Tests
end

section
/-! The side effects of the commands (20_memory.md section 4, R55). -/

namespace Sys2Proof.Machine

/-! ### A command that leaves no fault has completed -/

/-- No command's completion writes `fault`. -/
@[simp] theorem completed_fault (i : Instr) (s : State) : (completed i s).fault = s.fault := by
  cases i <;> simp [appended]

/-- The inversion of `exec_next_cases` for a next state that is not faulted: the block was running and the command
completed, with its own condition for completing. -/
theorem exec_next_of_fault_none {i : Instr} {s t : State} (h : exec i s = .next t)
    (ht : t.fault = none) :
    s.Ready ∧ (∃ d, t = (completed i s).setResponse ⟨0, d⟩) ∧
      (∀ b, i = .append b → s.cursor.val ≠ 40) ∧ (i = .check → s.cursor.val = 40) := by
  obtain ⟨hs, ⟨f, hf, rfl⟩ | ⟨-, f, rfl⟩ | ⟨hf, hd, happend, hcheck, -⟩⟩ := exec_next_cases h
  · simp [hf] at ht
  · simp at ht
  · exact ⟨⟨hs, hf⟩, hd, happend, hcheck⟩

/-- A command that answers a fault code leaves `fault` written (R201). -/
theorem exec_next_faulted_of_rfault_ne_zero {i : Instr} {s t : State} {r : Response}
    (h : exec i s = .next t) (hr : t.response = some r) (hcode : r.rfault ≠ 0) : t.Faulted := by
  intro ht
  obtain ⟨-, ⟨d, rfl⟩, -⟩ := exec_next_of_fault_none h ht
  obtain rfl : ⟨0, d⟩ = r := Option.some.inj hr
  exact hcode rfl

/-! ### What each command's completion writes -/

/-- STATUS, READFRAME, CLASSIFY and DECODE have nothing to write. -/
theorem completed_of_reading {i : Instr}
    (hi : i = .status ∨ i = .readframe ∨ (∃ p x, i = .classify p x) ∨ i = .decode) (s : State) :
    completed i s = s := by
  obtain rfl | rfl | ⟨p, x, rfl⟩ | rfl := hi <;> rfl

/-- APPEND's completion advances the cursor (R123). -/
theorem appended_cursor_val {s : State} (hc : s.cursor.val ≠ 40) (b : Bool) :
    (appended b s).cursor.val = s.cursor.val + 1 := by
  rw [appended, State.setCursor_cursor, nextCursor_val hc]

/-! ### Repeating a command -/

/-- CHECK of a complete frame depends on neither `chk` nor the last response: whether the frame passes is read from
the frame alone. -/
theorem exec_check_setResponse_setChk {s : State} (hs : s.Ready) (hc : s.cursor.val = 40)
    (r : Response) (v : Chk) : exec .check ((s.setChk v).setResponse r) = exec .check s := by
  rw [exec_check_of_complete hs hc,
    exec_check_of_complete (s := (s.setChk v).setResponse r) hs hc]
  rfl

/-- A second CHECK leaves the state and the response of the first (R156). -/
theorem exec_check_repeat {s t : State} (h : exec .check s = .next t) (ht : t.fault = none) :
    exec .check t = .next t := by
  obtain ⟨hs, ⟨d, htd⟩, -, hcheck⟩ := exec_next_of_fault_none h ht
  calc exec .check t
      = exec .check ((completed .check s).setResponse ⟨0, d⟩) := by rw [htd]
    _ = exec .check s := exec_check_setResponse_setChk hs (hcheck rfl) _ _
    _ = .next t := h

/-- A second RESET leaves the state and the response of the first: the cleared frame of a running block, the stored
code of a halted one. -/
theorem exec_reset_repeat {s t : State} (h : exec .reset s = .next t) : exec .reset t = .next t := by
  obtain ⟨hs, -⟩ := exec_next_cases h
  cases hf : s.fault with
  | some f =>
    rw [exec_of_halted ⟨hs, hf⟩] at h
    cases h
    exact exec_of_halted (s := s.setResponse _) ⟨hs, hf⟩ _
  | none =>
    rw [exec_reset ⟨hs, hf⟩, respond_eq] at h
    cases h
    exact exec_reset ⟨hs, hf⟩

/-- Settles O19: a command that leaves no fault has completed, so its effect is what its completion writes. -/
theorem commandSideEffects : Obligations.CommandSideEffects := by
  unfold Obligations.CommandSideEffects
  refine ⟨?reading, ?check, ?append, fun s t h => exec_reset_repeat h,
    fun i s t r h => exec_next_faulted_of_rfault_ne_zero h⟩
  case reading =>
    intro i s t hi h ht
    obtain ⟨-, ⟨d, rfl⟩, -⟩ := exec_next_of_fault_none h ht
    rw [completed_of_reading hi]
    rfl
  case check =>
    intro s t h ht
    refine ⟨?_, exec_check_repeat h ht⟩
    obtain ⟨-, ⟨d, rfl⟩, -⟩ := exec_next_of_fault_none h ht
    rfl
  case append =>
    intro b s t h ht
    obtain ⟨-, ⟨d, rfl⟩, happend, -⟩ := exec_next_of_fault_none h ht
    exact appended_cursor_val (happend b rfl) b

end Sys2Proof.Machine
end

section
/-! The command words (30_encoding.md sections 1 and 6): the five fields of a word, as numbers and under the operations
that build and mask words, and the decoder as the encoder's inverse. -/

namespace Sys2Proof.Machine

/-! ### The fields of a word, as numbers (R71) -/

theorem opField_toNat (w : CmdWord) : (opField w).toNat = w.toNat % 8 := by
  simp [opField, BitVec.extractLsb'_toNat]

theorem bField_toNat (w : CmdWord) : (bField w).toNat = w.toNat / 8 % 2 := by
  rw [bField, ← BitVec.testBit_toNat, Nat.testBit_eq_decide_div_mod_eq]
  rcases Nat.mod_two_eq_zero_or_one (w.toNat / 2 ^ 3) with h | h <;> simp_all

theorem phaseField_toNat (w : CmdWord) : (phaseField w).toNat = w.toNat / 16 % 8 := by
  simp [phaseField, BitVec.extractLsb'_toNat, Nat.shiftRight_eq_div_pow]

theorem rsvField_toNat (w : CmdWord) : (rsvField w).toNat = w.toNat / 128 % 512 := by
  simp [rsvField, BitVec.extractLsb'_toNat, Nat.shiftRight_eq_div_pow]

theorem tField_toNat (w : CmdWord) : (tField w).toNat = w.toNat / 65536 := by
  have hw := w.isLt
  simp only [tField, BitVec.extractLsb'_toNat, Nat.shiftRight_eq_div_pow]
  omega

/-- A run of bits of a word is zero as a number. -/
theorem extractLsb'_eq_zero_iff (w : CmdWord) (lo width : Nat) :
    w.extractLsb' lo width = 0 ↔ w.toNat / 2 ^ lo % 2 ^ width = 0 := by
  simp [← BitVec.toNat_inj, BitVec.extractLsb'_toNat, Nat.shiftRight_eq_div_pow]

/-- The bits above `op`, which a bare opcode tests. -/
theorem bareBits_eq_zero_iff (w : CmdWord) : w.extractLsb' 3 29 = 0 ↔ w.toNat / 8 = 0 := by
  have hw := w.isLt
  rw [extractLsb'_eq_zero_iff]
  omega

/-- The bits above `b`, which APPEND's opcode tests. -/
theorem appendBits_eq_zero_iff (w : CmdWord) : w.extractLsb' 4 28 = 0 ↔ w.toNat / 16 = 0 := by
  have hw := w.isLt
  rw [extractLsb'_eq_zero_iff]
  omega

/-- The five fields make up the word. -/
theorem toNat_eq_fields (w : CmdWord) :
    w.toNat = 65536 * (tField w).toNat + 128 * (rsvField w).toNat + 16 * (phaseField w).toNat +
      8 * (bField w).toNat + (opField w).toNat := by
  rw [tField_toNat, rsvField_toNat, phaseField_toNat, bField_toNat, opField_toNat]
  omega

/-- Words with the same five fields are equal. -/
theorem cmdWord_eq_iff_fields {v w : CmdWord} :
    v = w ↔ opField v = opField w ∧ bField v = bField w ∧ phaseField v = phaseField w ∧
      rsvField v = rsvField w ∧ tField v = tField w := by
  refine ⟨fun h => h ▸ ⟨rfl, rfl, rfl, rfl, rfl⟩, fun ⟨hop, hb, hphase, hrsv, ht⟩ => ?_⟩
  rw [← BitVec.toNat_inj, toNat_eq_fields v, toNat_eq_fields w, hop, hb, hphase, hrsv, ht]

/-! ### The fields of an assembled word -/

section
variable (t : BitVec 16) (phase : BitVec 3) (b : Bool) (op : BitVec 3)

theorem assembleWord_toNat :
    (assembleWord t phase b op).toNat =
      65536 * t.toNat + 16 * phase.toNat + 8 * b.toNat + op.toNat := by
  simp only [assembleWord, toNat_append_eq, BitVec.toNat_ofBool, BitVec.toNat_ofNat]
  omega

@[simp] theorem opField_assembleWord : opField (assembleWord t phase b op) = op := by
  have hop := op.isLt
  rw [← BitVec.toNat_inj, opField_toNat, assembleWord_toNat]
  omega

@[simp] theorem bField_assembleWord : bField (assembleWord t phase b op) = b := by
  rw [bField, assembleWord, BitVec.getLsbD_append, BitVec.getLsbD_append]
  simp

@[simp] theorem phaseField_assembleWord : phaseField (assembleWord t phase b op) = phase := by
  have hop := op.isLt
  have hphase := phase.isLt
  have hb := b.toNat_le
  rw [← BitVec.toNat_inj, phaseField_toNat, assembleWord_toNat]
  omega

@[simp] theorem rsvField_assembleWord : rsvField (assembleWord t phase b op) = 0 := by
  have hop := op.isLt
  have hphase := phase.isLt
  have hb := b.toNat_le
  rw [rsvField, extractLsb'_eq_zero_iff, assembleWord_toNat]
  omega

@[simp] theorem tField_assembleWord : tField (assembleWord t phase b op) = t := by
  have hop := op.isLt
  have hphase := phase.isLt
  have hb := b.toNat_le
  rw [← BitVec.toNat_inj, tField_toNat, assembleWord_toNat]
  omega

end

/-- A word is an assembled one exactly when it has those fields and nothing in `rsv`. -/
theorem assembleWord_eq_iff {t : BitVec 16} {phase : BitVec 3} {b : Bool} {op : BitVec 3}
    {w : CmdWord} :
    assembleWord t phase b op = w ↔
      opField w = op ∧ bField w = b ∧ phaseField w = phase ∧ rsvField w = 0 ∧ tField w = t := by
  rw [eq_comm, cmdWord_eq_iff_fields]
  simp

/-! ### The fields of a masked word -/

section
variable (w m : CmdWord)

@[simp] theorem opField_and : opField (w &&& m) = opField w &&& opField m := by
  simp [opField, BitVec.extractLsb'_and]

@[simp] theorem bField_and : bField (w &&& m) = (bField w && bField m) := by
  simp [bField]

@[simp] theorem phaseField_and : phaseField (w &&& m) = phaseField w &&& phaseField m := by
  simp [phaseField, BitVec.extractLsb'_and]

@[simp] theorem rsvField_and : rsvField (w &&& m) = rsvField w &&& rsvField m := by
  simp [rsvField, BitVec.extractLsb'_and]

@[simp] theorem tField_and : tField (w &&& m) = tField w &&& tField m := by
  simp [tField, BitVec.extractLsb'_and]

end

/-! ### The decoder is the encoder's inverse (R83) -/

/-- A word with nothing above its opcode is the bare word of that opcode. -/
theorem assembleWord_eq_of_bareBits {w : CmdWord} {op : BitVec 3}
    (hop : (opField w).toNat = op.toNat) (h : w.extractLsb' 3 29 = 0) :
    assembleWord 0 0 false op = w := by
  rw [bareBits_eq_zero_iff] at h
  rw [← BitVec.toNat_inj, assembleWord_toNat, ← hop, opField_toNat]
  simp only [BitVec.ofNat_eq_ofNat, BitVec.toNat_ofNat, Bool.toNat_false]
  omega

/-- A word with nothing above its bit `b` is APPEND's form of that bit. -/
theorem assembleWord_eq_of_appendBits {w : CmdWord} {op : BitVec 3}
    (hop : (opField w).toNat = op.toNat) (h : w.extractLsb' 4 28 = 0) :
    assembleWord 0 0 (bField w) op = w := by
  rw [appendBits_eq_zero_iff] at h
  rw [← BitVec.toNat_inj, assembleWord_toNat, ← hop, bField_toNat, opField_toNat]
  simp only [BitVec.ofNat_eq_ofNat, BitVec.toNat_ofNat]
  omega

/-- A word that decodes is the encoding of what it decodes to. -/
theorem encode_of_decodeWord {w : CmdWord} {i : Instr} (h : decodeWord w = .ok i) :
    encode i = w := by
  obtain ⟨hrsv, ⟨hop, hbits, rfl⟩ | ⟨hop, hbits, rfl⟩ | ⟨hop, hbits, rfl⟩ | ⟨hop, hb, -, rfl⟩ |
    ⟨hop, hbits, rfl⟩ | ⟨hop, hbits, rfl⟩ | ⟨hop, hbits, rfl⟩⟩ := decodeWord_ok_cases h
  · exact assembleWord_eq_of_bareBits hop hbits
  · exact assembleWord_eq_of_appendBits hop hbits
  · exact assembleWord_eq_of_bareBits hop hbits
  · exact assembleWord_eq_iff.mpr ⟨BitVec.eq_of_toNat_eq hop, hb, rfl, hrsv, rfl⟩
  · exact assembleWord_eq_of_bareBits hop hbits
  · exact assembleWord_eq_of_bareBits hop hbits
  · exact assembleWord_eq_of_bareBits hop hbits

/-- The word of a well-formed command decodes to it. -/
theorem decodeWord_encode {i : Instr} (h : i.wellFormed = true) : decodeWord (encode i) = .ok i := by
  cases i with
  | append b => cases b <;> rfl
  | classify phase t =>
    have hphase : phase.toNat ≤ 5 := of_decide_eq_true h
    simp [decodeWord, decodeClassify, encode, hphase]
  | _ => rfl

/-- The decoder accepts exactly the words of well-formed commands, each as its own command. -/
theorem decodeWord_eq_ok_iff {w : CmdWord} {i : Instr} :
    decodeWord w = .ok i ↔ i.wellFormed = true ∧ encode i = w :=
  ⟨fun h => ⟨decodeWord_wellFormed h, encode_of_decodeWord h⟩,
    fun ⟨hwf, hw⟩ => hw ▸ decodeWord_encode hwf⟩

end Sys2Proof.Machine
end

section
/-! The encoding statements (30_encoding.md sections 1, 3 and 5): the masks by the fields they fix, the grounds of
illegality by the arms of the decoder, and the pseudo-instructions. -/

namespace Sys2Proof.Machine

/-! ### The legal words by mask and match (R73)

A mask acts field by field: all ones keep a field, zeros free it. -/

/-- APPEND's mask and match fix every field but `b`. -/
theorem and_appendMask_eq_iff {w : CmdWord} :
    w &&& 0xFFFFFFF7 = 0x00000001 ↔
      opField w = 1 ∧ phaseField w = 0 ∧ rsvField w = 0 ∧ tField w = 0 := by
  rw [cmdWord_eq_iff_fields, opField_and, bField_and, phaseField_and, rsvField_and, tField_and]
  change opField w &&& .allOnes 3 = 1 ∧ (bField w && false) = false ∧
    phaseField w &&& .allOnes 3 = 0 ∧ rsvField w &&& .allOnes 9 = 0 ∧
    tField w &&& .allOnes 16 = 0 ↔ _
  simp only [BitVec.and_allOnes, Bool.and_false, true_and]

/-- CLASSIFY's mask and match fix every field but `phase` and `t`. -/
theorem and_classifyMask_eq_iff {w : CmdWord} :
    w &&& 0x0000FF8F = 0x00000003 ↔ opField w = 3 ∧ bField w = false ∧ rsvField w = 0 := by
  rw [cmdWord_eq_iff_fields, opField_and, bField_and, phaseField_and, rsvField_and, tField_and]
  change opField w &&& .allOnes 3 = 3 ∧ (bField w && true) = false ∧ phaseField w &&& 0#3 = 0#3 ∧
    rsvField w &&& .allOnes 9 = 0 ∧ tField w &&& 0#16 = 0#16 ↔ _
  simp only [BitVec.and_allOnes, Bool.and_true, BitVec.and_zero, true_and, and_true]

theorem encode_append_eq_iff_mask {w : CmdWord} {b : Bool} :
    encode (.append b) = w ↔ w &&& 0xFFFFFFF7 = 0x00000001 ∧ bField w = b := by
  rw [encode, assembleWord_eq_iff, and_appendMask_eq_iff]
  tauto

theorem encode_classify_eq_iff_mask {w : CmdWord} {phase : BitVec 3} {t : BitVec 16} :
    encode (.classify phase t) = w ↔
      w &&& 0x0000FF8F = 0x00000003 ∧ phaseField w = phase ∧ tField w = t := by
  rw [encode, assembleWord_eq_iff, and_classifyMask_eq_iff]
  tauto

/-- A bare opcode's mask is the whole word: its legal word is the match itself. -/
theorem decodeWord_eq_ok_iff_fullMask {w v : CmdWord} {i : Instr} (hwf : i.wellFormed = true)
    (hv : encode i = v) : decodeWord w = .ok i ↔ w &&& 0xFFFFFFFF = v := by
  rw [decodeWord_eq_ok_iff, hv, show w &&& 0xFFFFFFFF = w from BitVec.and_allOnes]
  simp [hwf, eq_comm]

/-- Settles O23: by the fields that each mask and match fix. -/
theorem legalWordsByMaskAndMatch : Obligations.LegalWordsByMaskAndMatch := by
  intro w
  refine ⟨decodeWord_eq_ok_iff_fullMask rfl rfl, ?append, decodeWord_eq_ok_iff_fullMask rfl rfl, ?classify,
    decodeWord_eq_ok_iff_fullMask rfl rfl, decodeWord_eq_ok_iff_fullMask rfl rfl,
    decodeWord_eq_ok_iff_fullMask rfl rfl⟩
  case append =>
    simp [decodeWord_eq_ok_iff, encode_append_eq_iff_mask, Instr.wellFormed]
  case classify =>
    simp [decodeWord_eq_ok_iff, encode_classify_eq_iff_mask, Instr.wellFormed, ← phaseField_toNat,
      and_comm]

/-! ### The illegal words by number (R76) -/

theorem decodeBare_eq_error_iff (w : CmdWord) (i : Instr) :
    (∃ r, decodeBare w i = .error r) ↔ w.toNat / 8 ≠ 0 := by
  rw [decodeBare, Ne, ← bareBits_eq_zero_iff]
  split_ifs with h <;> simpa using h

theorem decodeAppend_eq_error_iff (w : CmdWord) :
    (∃ r, decodeAppend w = .error r) ↔ w.toNat / 16 ≠ 0 := by
  rw [decodeAppend, Ne, ← appendBits_eq_zero_iff]
  split_ifs with h <;> simpa using h

theorem decodeClassify_eq_error_iff (w : CmdWord) :
    (∃ r, decodeClassify w = .error r) ↔ w.toNat / 8 % 2 ≠ 0 ∨ 6 ≤ w.toNat / 16 % 8 := by
  rw [decodeClassify, ← bField_toNat, ← phaseField_toNat]
  split_ifs with hb hphase
  · simp [hb]
  · simp [hb]; omega
  · simp [hb]; omega

/-- R76: the decoder's refusals by number. -/
theorem decodeWord_eq_error_iff (w : CmdWord) :
    (∃ r, decodeWord w = .error r) ↔
      (w.toNat % 8 = 7 ∨
       w.toNat / 128 % 512 ≠ 0 ∨
       (w.toNat % 8 = 1 ∧ (w.toNat / 16 % 8 ≠ 0 ∨ w.toNat / 65536 ≠ 0)) ∨
       (w.toNat % 8 = 3 ∧ w.toNat / 8 % 2 ≠ 0) ∨
       (w.toNat % 8 ≠ 1 ∧ w.toNat % 8 ≠ 3 ∧
         (w.toNat / 8 % 2 ≠ 0 ∨ w.toNat / 16 % 8 ≠ 0 ∨ w.toNat / 65536 ≠ 0)) ∨
       (w.toNat % 8 = 3 ∧ 6 ≤ w.toNat / 16 % 8)) := by
  have hrsv : rsvField w = 0 ↔ w.toNat / 128 % 512 = 0 := extractLsb'_eq_zero_iff w 7 9
  rw [decodeWord, opField_toNat]
  by_cases h : rsvField w = 0
  · rw [if_neg (not_not.mpr h)]
    rw [hrsv] at h
    split
    case h_2 => rw [decodeAppend_eq_error_iff]; omega
    case h_4 => rw [decodeClassify_eq_error_iff]; omega
    case h_8 h0 h1 h2 h3 h4 h5 h6 =>
      have hop : w.toNat % 8 = 7 := by
        simp only [imp_false] at h0 h1 h2 h3 h4 h5 h6
        omega
      exact iff_of_true ⟨_, rfl⟩ (.inl hop)
    all_goals rw [decodeBare_eq_error_iff]; omega
  · rw [if_pos h]
    rw [hrsv] at h
    simp [h]

/-- An illegal word on a running block raises ILLEGAL_CMD and writes nothing else (R76, R201). -/
theorem step_of_illegal_of_ready {s : State} {w : CmdWord} {rest : List PortInput} {r : IllegalWord}
    (hs : s.Ready) (hp : s.port = .cmd w :: rest) (hd : decodeWord w = .error r) :
    step s = .next { s with port := rest, fault := some .illegalCmd, response := some ⟨1, 0⟩ } := by
  obtain ⟨hstarted, hfault⟩ := hs
  rw [step_of_illegal hp hd, illegalCommand, runCommand_of_ready (s := s.setPort rest) hstarted hfault]
  rfl

/-- Settles O24: the grounds by the arms of the decoder, and the one command of every other word by the decoder being
the encoder's inverse. -/
theorem illegalWordsByFourGrounds : Obligations.IllegalWordsByFourGrounds := by
  refine ⟨decodeWord_eq_error_iff, fun s w rest r => step_of_illegal_of_ready, ?_⟩
  intro w hlegal
  cases hd : decodeWord w with
  | error r => exact absurd ⟨r, hd⟩ hlegal
  | ok i =>
    obtain ⟨hwf, hw⟩ := decodeWord_eq_ok_iff.mp hd
    refine ⟨i, hwf, hw, fun j hjwf hj => ?_⟩
    have hdj : decodeWord w = .ok j := decodeWord_eq_ok_iff.mpr ⟨hjwf, hj⟩
    exact Except.ok.inj (hdj.symm.trans hd)

/-! ### The pseudo-instructions (R82) -/

/-- STATUS changes nothing but the response (R55, R125). -/
theorem exec_status_frame {s t : State} (h : exec .status s = .next t) :
    t = { s with response := t.response } := by
  obtain ⟨hs, -⟩ := exec_next_cases h
  obtain hf | ⟨f, hf⟩ := Option.eq_none_or_eq_some s.fault
  · rw [exec_status ⟨hs, hf⟩, respond_eq] at h
    cases h
    rfl
  · rw [exec_of_halted ⟨hs, hf⟩] at h
    cases h
    rfl

/-- Settles O26: the expansions are computed, and NOP is STATUS. -/
theorem pseudoInstructionExpansions : Obligations.PseudoInstructionExpansions :=
  ⟨rfl, rfl, rfl, rfl, rfl, rfl, fun _ => rfl, fun _ _ => exec_status_frame⟩

end Sys2Proof.Machine
end

section
/-! The pulse classifier (40_classifier.md): the rows by phase, the response as a number, and CLASSIFY on a running
block. -/

namespace Sys2Proof.Machine

/-! ### The rows (R101, R107) -/

/-- The lookup of a row finds each phase by its code (R74). -/
@[simp] theorem phase_ofCode_code (q : Phase) : Phase.ofCode q.code = some q := by
  cases q <;> rfl

/-- The six legal codes select a row. -/
theorem exists_phase_of_code_le_five {p : BitVec 3} (h : p.toNat ≤ 5) :
    ∃ q, Phase.ofCode p = some q := by
  refine Option.ne_none_iff_exists'.mp fun hnone => ?_
  have hsix : 6 ≤ p.toNat := (phase_ofCode_eq_none_iff p).mp hnone
  omega

/-- The number of the ErrorKind that a phase's TIMEOUT reports (R107, R204). -/
def timeoutNumber (q : Phase) : Nat := (errCode (some (errKindOf q))).toNat

/-- The statements' list of rows holds, for each phase, its code, its row and the number of its ErrorKind. -/
theorem phaseRows_eq_map (pt : PhaseTable) :
    phaseRows pt =
      [Phase.presence, .ackLow, .ackHigh, .bitLow, .bitHigh, .bitCombined].map fun q =>
        (q.code, pt.row q, timeoutNumber q) := rfl

theorem exists_phase_of_mem_phaseRows {pt : PhaseTable} {p : BitVec 3} {row : PhaseRow} {err : Nat}
    (h : (p, row, err) ∈ phaseRows pt) :
    ∃ q : Phase, p = q.code ∧ row = pt.row q ∧ err = timeoutNumber q := by
  rw [phaseRows_eq_map] at h
  obtain ⟨q, -, hq⟩ := List.mem_map.mp h
  cases hq
  exact ⟨q, rfl, rfl, rfl⟩

/-! ### The response as a number (R100, R102) -/

/-- CLASSIFY's layout: `err_kind` from bit 4 on, the class in bits 1 and 0. -/
theorem classifyData_eq_ofNat (r : PulseClass × Option ErrorKind) :
    classifyData r = BitVec.ofNat 64 (16 * (errCode r.2).toNat + r.1.code.toNat) := by
  rw [← BitVec.toNat_inj, classifyData, BitVec.toNat_setWidth, toNat_append_eq, toNat_append_eq,
    BitVec.toNat_ofNat, BitVec.toNat_ofNat]
  omega

section
variable {t : Nat} {row : PhaseRow}

theorem classify_of_gt_bound (h : t > row.bound) (q : Phase) :
    classify t row q = (.timeout, some (errKindOf q)) := if_pos h

theorem classify_of_le_thr (hbound : ¬ t > row.bound) (h : t ≤ row.thr) (q : Phase) :
    classify t row q = (.short, none) := by
  rw [classify, if_neg hbound, if_pos h]

theorem classify_of_gt_thr (hbound : ¬ t > row.bound) (h : ¬ t ≤ row.thr) (q : Phase) :
    classify t row q = (.long, none) := by
  rw [classify, if_neg hbound, if_neg h]

end

/-- The data of a classification is the statements' number, in each of R102's three outcomes. -/
theorem classifyData_classify (t : BitVec 16) (row : PhaseRow) (q : Phase) :
    classifyData (classify (elapsed t) row q) =
      BitVec.ofNat 64 (classifyNumber t row (timeoutNumber q)) := by
  rw [classifyData_eq_ofNat, elapsed]
  by_cases hbound : t.toNat > row.bound
  · rw [classify_of_gt_bound hbound, classifyNumber, if_pos hbound]
    rfl
  · by_cases hthr : t.toNat ≤ row.thr
    · rw [classify_of_le_thr hbound hthr, classifyNumber, if_neg hbound, if_pos hthr]
      rfl
    · rw [classify_of_gt_thr hbound hthr, classifyNumber, if_neg hbound, if_neg hthr]
      rfl

/-! ### CLASSIFY on a running block -/

/-- CLASSIFY of a legal phase writes the response only: R102's number for the phase's row of the block's table. -/
theorem exec_classify_eq_setResponse {s : State} (h : s.Ready) {p : BitVec 3} {q : Phase}
    (hq : Phase.ofCode p = some q) (t : BitVec 16) :
    exec (.classify p t) s =
      .next (s.setResponse
        ⟨0, BitVec.ofNat 64 (classifyNumber t (s.phaseTable.row q) (timeoutNumber q))⟩) := by
  rw [exec_classify_of_row h t hq, respond_eq, classifyData_classify]

/-- Settles O37: each listed row is the row of a phase, and CLASSIFY answers that row's number. -/
theorem classifyComputesClass : Obligations.ClassifyComputesClass := by
  intro s p row err t hs hrow
  obtain ⟨q, rfl, rfl, rfl⟩ := exists_phase_of_mem_phaseRows hrow
  exact exec_classify_eq_setResponse hs (phase_ofCode_code q) t

/-- Settles O41: the number answered depends on no more of the state than its table. -/
theorem classifyIndependentOfState : Obligations.ClassifyIndependentOfState := by
  intro s u p t hs hu htable hp
  obtain ⟨q, hq⟩ := exists_phase_of_code_le_five hp
  refine ⟨_, exec_classify_eq_setResponse hs hq t, ?_⟩
  rw [htable]
  exact exec_classify_eq_setResponse hu hq t

end Sys2Proof.Machine
end

section
/-! The frame accumulator (41_accumulator.md): what survives a halted block, the response layouts as numbers, and
RESET, APPEND, STATUS and READFRAME on a running block. -/

namespace Sys2Proof.Machine

/-! ### A stored fault (R129, R202) -/

theorem answersStoredCode (i : Instr) : AnswersStoredCode i := fun _ _ h => exec_of_halted h i

/-- Whatever command is wrapped, a stored code stays. -/
theorem runCommand_next_keeps_fault {body : State → Result} {s t : State} {f : FaultCode}
    (h : runCommand body s = .next t) (hf : s.fault = some f) : t.fault = some f := by
  obtain ⟨-, ⟨g, -, rfl⟩ | ⟨hnone, -⟩⟩ := runCommand_next_cases h
  · exact hf
  · simp [hf] at hnone

theorem exec_next_keeps_fault {i : Instr} {s t : State} {f : FaultCode}
    (h : exec i s = .next t) (hf : s.fault = some f) : t.fault = some f := by
  obtain ⟨hs, -⟩ := exec_next_cases h
  rw [exec_of_halted ⟨hs, hf⟩] at h
  cases h
  exact hf

/-- A step keeps a stored code unless the host asserts rst, which leaves none. -/
theorem step_next_keeps_fault_or_rst {s t : State} {f : FaultCode} (h : step s = .next t)
    (hf : s.fault = some f) :
    t.fault = some f ∨ (t.fault = none ∧ ∃ rest, s.port = .rst :: rest) := by
  obtain ⟨-, hstep⟩ | ⟨rest, hport, hstep⟩ | ⟨-, rest, -, -, -, hstep⟩ | ⟨-, rest, i, -, -, hstep⟩ :=
    step_cases s <;> rw [hstep] at h
  case inl =>
    cases h
    exact .inl hf
  case inr.inl =>
    cases h
    exact .inr ⟨rfl, rest, hport⟩
  case inr.inr.inl => exact .inl (runCommand_next_keeps_fault h hf)
  case inr.inr.inr => exact .inl (exec_next_keeps_fault h hf)

theorem exec_reset_next_fault {s t : State} (h : exec .reset s = .next t) : t.fault = s.fault := by
  obtain ⟨hs, -⟩ := exec_next_cases h
  cases hf : s.fault with
  | some f => exact exec_next_keeps_fault h hf
  | none =>
    rw [exec_reset ⟨hs, hf⟩] at h
    cases h
    exact hf

/-- Settles O6: only a step of rst drops a stored code. -/
theorem onlyRstClearsFault : Obligations.OnlyRstClearsFault :=
  ⟨fun _ _ => exec_reset_next_fault, answersStoredCode .reset,
    fun _ _ _ h hf hne => (step_next_keeps_fault_or_rst h hf).resolve_left hne⟩

/-- A command that answers code 0 leaves no fault: a halted block's answer and a fault taken both carry their code. -/
theorem exec_next_fault_none_of_rfault_zero {i : Instr} {s t : State} {d : RData}
    (h : exec i s = .next t) (hr : t.response = some ⟨0, d⟩) : t.fault = none := by
  obtain ⟨-, ⟨f, -, rfl⟩ | ⟨-, f, rfl⟩ | ⟨hf, ⟨d', rfl⟩, -⟩⟩ := exec_next_cases h
  · exact absurd (congrArg Response.rfault (Option.some.inj hr)) (faultCode_ne_zero f)
  · exact absurd (congrArg Response.rfault (Option.some.inj hr)) (faultCode_ne_zero f)
  · rw [State.setResponse_fault, completed_fault, hf]

/-- A response with code 0 comes from a running block, and APPEND's from one whose frame is not complete. -/
theorem ready_of_rfault_zero {i : Instr} {s t : State} {d : RData} (h : exec i s = .next t)
    (hr : t.response = some ⟨0, d⟩) : s.Ready ∧ ∀ b, i = .append b → s.cursor.val ≠ 40 := by
  obtain ⟨hs, -, happend, -⟩ :=
    exec_next_of_fault_none h (exec_next_fault_none_of_rfault_zero h hr)
  exact ⟨hs, happend⟩

/-! ### The response layouts (R80) -/

theorem chkCode_toNat (v : Chk) : v.code.toNat = chkNumber v := by cases v <;> rfl

theorem chkNumber_lt (v : Chk) : chkNumber v < 4 := by cases v <;> decide

theorem complete_toNat (k : Fin 41) : (complete k).toNat = if k.val = 40 then 1 else 0 := by
  rw [complete]
  split_ifs with h <;> simp [h]

theorem appendData_eq_ofNat (k : Fin 41) :
    appendData k = BitVec.ofNat 64 (k.val + if k.val = 40 then 64 else 0) := by
  have hk := k.isLt
  rw [← BitVec.toNat_inj, appendData, BitVec.toNat_setWidth, toNat_append_eq, cursorBits_toNat,
    BitVec.toNat_ofBool, complete_toNat, BitVec.toNat_ofNat]
  split_ifs <;> omega

theorem statusData_eq_ofNat (k : Fin 41) (v : Chk) :
    statusData k v =
      BitVec.ofNat 64 (k.val + (if k.val = 40 then 64 else 0) + 256 * chkNumber v) := by
  have hk := k.isLt
  have hv := chkNumber_lt v
  rw [← BitVec.toNat_inj, statusData, BitVec.toNat_setWidth, toNat_append_eq, toNat_append_eq,
    toNat_append_eq, cursorBits_toNat, BitVec.toNat_ofBool, complete_toNat, chkCode_toNat,
    BitVec.toNat_ofNat, BitVec.toNat_ofNat]
  split_ifs <;> omega

/-- `frame40 = H : T : C` as a number (R26). -/
theorem frame40_toNat (s : State) :
    (frame40 s).toNat = s.H.toNat * 2 ^ 24 + s.T.toNat * 2 ^ 8 + s.C.toNat := by
  rw [frame40, toNat_append_eq, toNat_append_eq]
  omega

theorem readFrameData_eq_ofNat (frame : BitVec 40) (k : Fin 41) (v : Chk) :
    readFrameData frame k v =
      BitVec.ofNat 64 (frame.toNat + k.val * 2 ^ 40 + chkNumber v * 2 ^ 46) := by
  have hframe := frame.isLt
  have hk := k.isLt
  have hv := chkNumber_lt v
  rw [← BitVec.toNat_inj, readFrameData, BitVec.toNat_setWidth, toNat_append_eq, toNat_append_eq,
    cursorBits_toNat, chkCode_toNat, BitVec.toNat_ofNat]
  omega

/-- Bit 6 of APPEND's data (R121). -/
theorem getLsbD_appendData_six (k : Fin 41) : (appendData k).getLsbD 6 = complete k := by
  rw [appendData, BitVec.getLsbD_setWidth, BitVec.getLsbD_append]
  simp

/-- Bit 6 of STATUS's data (R125). -/
theorem getLsbD_statusData_six (k : Fin 41) (v : Chk) : (statusData k v).getLsbD 6 = complete k := by
  rw [statusData, BitVec.getLsbD_setWidth, BitVec.getLsbD_append, BitVec.getLsbD_append]
  simp

/-- The low 40 bits of READFRAME's data are the frame (R127). -/
theorem getLsbD_readFrameData (frame : BitVec 40) (k : Fin 41) (v : Chk) {i : Nat} (hi : i < 40) :
    (readFrameData frame k v).getLsbD i = frame.getLsbD i := by
  rw [readFrameData, BitVec.getLsbD_setWidth, BitVec.getLsbD_append, if_pos hi,
    decide_eq_true (by omega : i < 64), Bool.true_and]

/-! ### RESET -/

/-- With op 0, only the word 0 is legal (R76). -/
theorem decodeWord_error_of_op_zero {w : CmdWord} (hop : w.toNat % 8 = 0) (hw : w ≠ 0) :
    ∃ r, decodeWord w = .error r := by
  have hpos : w.toNat ≠ 0 := fun h => hw (BitVec.eq_of_toNat_eq h)
  rw [decodeWord_eq_error_iff]
  omega

/-- Settles O27: RESET's completion is the cleared frame, and the decoder's refusals by number leave op 0 one word. -/
theorem resetClearsFrame : Obligations.ResetClearsFrame :=
  ⟨rfl, fun _ h => exec_reset h, answersStoredCode .reset, fun _ => decodeWord_error_of_op_zero,
    fun _ _ => exec_reset_repeat⟩

/-! ### APPEND -/

theorem appended_of_humidity {s : State} (h : s.cursor.val ≤ 15) (b : Bool) :
    appended b s =
      { s with H := assignBit s.H (15 - s.cursor.val) b, cursor := nextCursor s.cursor } := by
  rw [appended, writeFrameBit_humidity h]
  rfl

theorem appended_of_temperature {s : State} (h : 16 ≤ s.cursor.val) (h' : s.cursor.val ≤ 31)
    (b : Bool) :
    appended b s =
      { s with T := assignBit s.T (31 - s.cursor.val) b, cursor := nextCursor s.cursor } := by
  rw [appended, writeFrameBit_temperature h h']
  rfl

theorem appended_of_checksum {s : State} (h : 32 ≤ s.cursor.val) (b : Bool) :
    appended b s =
      { s with C := assignBit s.C (39 - s.cursor.val) b, cursor := nextCursor s.cursor } := by
  rw [appended, writeFrameBit_checksum h]
  rfl

/-- APPEND writes the frame and the cursor only. -/
theorem appended_frame (b : Bool) (s : State) :
    (appended b s).chk = s.chk ∧ (appended b s).fault = s.fault ∧
      s.SameSurroundings (appended b s) := by
  simp [appended, State.SameSurroundings]

/-- Below 40, APPEND completes with the new cursor as its data, and bit 6 with it when that is 40 (R123). -/
theorem exec_append_eq_setResponse {s : State} (hs : s.Ready) (b : Bool) (hc : s.cursor.val < 40) :
    exec (.append b) s =
      .next ((appended b s).setResponse
        ⟨0, BitVec.ofNat 64
          (s.cursor.val + 1 + if s.cursor.val + 1 = 40 then 64 else 0)⟩) := by
  have hne : s.cursor.val ≠ 40 := hc.ne
  rw [exec_append_of_incomplete hs b hne, respond_eq, appendData_eq_ofNat, nextCursor_val hne]

/-- Settles O28: by the sub-field that the cursor names. -/
theorem appendWritesBitAndAdvances : Obligations.AppendWritesBitAndAdvances := by
  intro s b hs hc
  obtain ⟨hchk, hfault, hsame⟩ := appended_frame b s
  refine ⟨_, exec_append_eq_setResponse hs b hc, appended_cursor_val hc.ne b, ?placement, hchk,
    hfault.trans hs.2, hsame, rfl⟩
  by_cases hH : s.cursor.val ≤ 15
  · rw [if_pos hH, appended_of_humidity hH]
    exact ⟨fun j _ => getLsbD_assignBit _ (by omega) b j, rfl, rfl⟩
  rw [if_neg hH]
  by_cases hT : s.cursor.val ≤ 31
  · rw [if_pos hT, appended_of_temperature (by omega) hT]
    exact ⟨fun j _ => getLsbD_assignBit _ (by omega) b j, rfl, rfl⟩
  · rw [if_neg hT, appended_of_checksum (by omega)]
    exact ⟨fun j _ => getLsbD_assignBit _ (by omega) b j, rfl, rfl⟩

theorem frameBit_appended {s : State} (hc : s.cursor.val < 40) (b : Bool) (j : Fin 40) :
    frameBit (appended b s) j = if j.val = s.cursor.val then b else frameBit s j :=
  frameBit_writeFrameBit s hc b j

/-- The frame's bits, counted from the least significant (R26). -/
theorem getLsbD_frame40 (s : State) {i : Nat} (hi : i < 40) :
    (frame40 s).getLsbD i = frameBit s ⟨39 - i, by omega⟩ := by
  rw [frameBit, Nat.sub_sub_self (by omega)]

/-- A single bit `b` shifted to position `k`. -/
theorem getLsbD_ofBool_shiftLeft (b : Bool) {k i : Nat} (hi : i < 40) :
    ((BitVec.ofBool b).setWidth 40 <<< k).getLsbD i = (decide (i = k) && b) := by
  rw [BitVec.getLsbD_shiftLeft, BitVec.getLsbD_setWidth, BitVec.getLsbD_ofBool]
  rcases Nat.lt_trichotomy i k with h | h | h
  · simp [h, h.ne]
  · simp [h, h ▸ hi]
  · simp [h.ne', show ¬ i < k by omega, show i - k ≠ 0 by omega]

/-- Where the bit at the cursor is still 0, assigning it is OR-ing it in (R124). -/
theorem frame40_appended {s : State} (hc : s.cursor.val < 40) (b : Bool)
    (hzero : frameBit s ⟨s.cursor.val, hc⟩ = false) :
    frame40 (appended b s) =
      frame40 s ||| (BitVec.ofBool b).setWidth 40 <<< (39 - s.cursor.val) := by
  refine BitVec.eq_of_getLsbD_eq fun i hi => ?_
  rw [BitVec.getLsbD_or, getLsbD_ofBool_shiftLeft b hi, getLsbD_frame40 _ hi, getLsbD_frame40 _ hi,
    frameBit_appended hc]
  by_cases hat : i = 39 - s.cursor.val
  · have htarget : (⟨39 - i, by omega⟩ : Fin 40) = ⟨s.cursor.val, hc⟩ :=
      Fin.ext (show 39 - i = s.cursor.val by omega)
    rw [htarget, if_pos rfl, hzero, decide_eq_true hat, Bool.false_or, Bool.true_and]
  · have hother : 39 - i ≠ s.cursor.val := by omega
    simp [hother, hat]

/-- Settles O30: the bit at the cursor is one of the unwritten bits. -/
theorem appendAssignsOneFrameBit : Obligations.AppendAssignsOneFrameBit := by
  intro s t b hs hc h
  rw [exec_append_eq_setResponse hs b hc] at h
  cases h
  exact ⟨frameBit_appended hc b,
    fun hzero => frame40_appended hc b (hzero ⟨s.cursor.val, hc⟩ le_rfl)⟩

/-- Settles O29: the fault taken halts the block. -/
theorem appendOverflowHalts : Obligations.AppendOverflowHalts := by
  intro s b hs hc
  have h := exec_append_of_complete hs b (congrArg Fin.val hc)
  refine ⟨h, fun i t ht => ?_⟩
  rw [h] at ht
  cases ht
  exact answersStoredCode i _ .appendOverflow ⟨hs.1, rfl⟩

/-! ### STATUS and READFRAME -/

/-- Settles O32: STATUS responds with its layout's number. -/
theorem statusReports : Obligations.StatusReports := by
  refine ⟨rfl, fun s hs => ?_, answersStoredCode .status⟩
  rw [exec_status hs, respond_eq, statusData_eq_ofNat]
  simp only [Fin.ext_iff]
  rfl

/-- Settles O33: a response with code 0 is that of a completed command, and bit 6 of either layout is `complete`. -/
theorem completeReportedAfterCommand : Obligations.CompleteReportedAfterCommand := by
  rintro s t d hr (⟨b, h⟩ | h)
  · obtain ⟨hs, hc⟩ := ready_of_rfault_zero h hr
    rw [exec_append_of_incomplete hs b (hc b rfl)] at h
    cases h
    cases hr
    rw [getLsbD_appendData_six, complete_iff, Fin.ext_iff]
    rfl
  · obtain ⟨hs, -⟩ := ready_of_rfault_zero h hr
    rw [exec_status hs] at h
    cases h
    cases hr
    rw [getLsbD_statusData_six, complete_iff, Fin.ext_iff]
    rfl

/-- READFRAME's data holds each frame bit at its place in `frame40`. -/
theorem exec_readframe_next_getLsbD {s t : State} {d : RData} (h : exec .readframe s = .next t)
    (hr : t.response = some ⟨0, d⟩) (j : Fin 40) : d.getLsbD (39 - j.val) = frameBit s j := by
  obtain ⟨hs, -⟩ := ready_of_rfault_zero h hr
  rw [exec_readframe hs] at h
  cases h
  cases hr
  exact getLsbD_readFrameData _ _ _ (by omega)

/-- Settles O34: READFRAME responds with its layout's number, whose low 40 bits are the frame's. -/
theorem readframeReturnsFrame : Obligations.ReadframeReturnsFrame := by
  refine ⟨rfl, fun s hs => ?_, answersStoredCode .readframe,
    fun s t d j hzero hj h hr => (exec_readframe_next_getLsbD h hr j).trans (hzero j hj)⟩
  rw [exec_readframe hs, respond_eq, readFrameData_eq_ofNat, frame40_toNat,
    show s.H.toNat * 2 ^ 24 + s.T.toNat * 2 ^ 8 + s.C.toNat =
      s.C.toNat + s.T.toNat * 2 ^ 8 + s.H.toNat * 2 ^ 24 by omega]
  rfl

end Sys2Proof.Machine
end

section
/-! The checksum validator (42_checksum.md): the byte split and the sum as numbers, CHECK's data as a number, and CHECK
on a complete and on an incomplete frame. -/

namespace Sys2Proof.Machine

/-! ### The checksum function (R152) -/

theorem hiByte_toNat (v : BitVec 16) : (hiByte v).toNat = v.toNat / 256 := by
  simp only [hiByte, BitVec.extractLsb'_toNat, Nat.shiftRight_eq_div_pow]
  omega

theorem loByte_toNat (v : BitVec 16) : (loByte v).toNat = v.toNat % 256 := by
  simp [loByte, BitVec.extractLsb'_toNat]

theorem checksum_toNat (h t : BitVec 16) :
    (checksum h t).toNat =
      ((hiByte h).toNat + (loByte h).toNat + (hiByte t).toNat + (loByte t).toNat) % 256 := by
  rw [checksum, BitVec.toNat_ofNat]
  exact Nat.mod_mod _ _

/-- The model's byte split and the statements' division and remainder give the same sum. -/
theorem checksum_toNat_eq_byteSum (h t : BitVec 16) : (checksum h t).toNat = byteSum h t := by
  rw [checksum_toNat, hiByte_toNat, loByte_toNat, hiByte_toNat, loByte_toNat]

/-- Byte addition reduces mod 256 after each step, the checksum once at the end. -/
theorem checksum_eq_add (h t : BitVec 16) :
    checksum h t = hiByte h + loByte h + hiByte t + loByte t := by
  simp only [checksum, ← BitVec.toNat_inj, BitVec.toNat_ofNat, BitVec.toNat_add, Nat.mod_add_mod,
    Nat.reducePow, Nat.mod_mod]

theorem passes_iff (s : State) : passes s = true ↔ checksum s.H s.T = s.C := beq_iff_eq

theorem passes_iff_byteSum (s : State) : passes s = true ↔ byteSum s.H s.T = s.C.toNat := by
  rw [passes_iff, ← BitVec.toNat_inj, checksum_toNat_eq_byteSum]

theorem chkOfPass_eq_pass_iff (pass : Bool) : chkOfPass pass = .pass ↔ pass = true := by
  cases pass <;> decide

/-! ### The response as a number (R150) -/

/-- CHECK's layout: the sum, `C` from bit 8 on, and either the pass bit or the number of ChecksumMismatch. -/
theorem checkData_eq_ofNat (sum c : BitVec 8) (pass : Bool) :
    checkData sum c pass =
      BitVec.ofNat 64 (sum.toNat + c.toNat * 2 ^ 8 + if pass then 2 ^ 16 else 6 * 2 ^ 20) := by
  have herr : (errCode (checkError pass)).toNat = if pass then 0 else 6 := by
    cases pass <;> rfl
  rw [← BitVec.toNat_inj, checkData, BitVec.toNat_setWidth, toNat_append_eq, toNat_append_eq,
    toNat_append_eq, toNat_append_eq, BitVec.toNat_ofBool, BitVec.toNat_ofNat, BitVec.toNat_ofNat,
    herr]
  cases pass with
  | false =>
    simp only [Bool.toNat_false, Bool.false_eq_true, if_false]
    omega
  | true =>
    simp only [Bool.toNat_true, if_true]
    omega

/-! ### CHECK on a running block -/

/-- Settles O46: CHECK's completion, with the frame's passing and the data read as numbers. -/
theorem checkRecordsComparison : Obligations.CheckRecordsComparison := by
  intro s hs hc
  rw [exec_check_of_complete hs (congrArg Fin.val hc), respond_eq, checkData_eq_ofNat,
    checksum_toNat_eq_byteSum]
  simp only [chkOfPass, passes_iff_byteSum]
  rfl

/-- Settles O48: the sum by its bytes, and `chk` by the comparison that CHECK completes with. -/
theorem checksumFormula : Obligations.ChecksumFormula := by
  refine ⟨fun h t => ⟨hiByte_toNat h, loByte_toNat h, by omega, checksum_toNat h t,
    checksum_eq_add h t⟩, fun s t hs hc hnext => ?_⟩
  rw [exec_check_of_complete hs (congrArg Fin.val hc), respond_eq] at hnext
  cases hnext
  exact (chkOfPass_eq_pass_iff _).trans (passes_iff s)

/-- A block fault taken halts the block: every later command answers its code (R201, R202). -/
theorem exec_after_raiseFault {s t : State} {f : FaultCode} (hs : s.started = true)
    (h : raiseFault f s = .next t) (i : Instr) :
    exec i t = .next { t with response := some ⟨f.code, 0⟩ } := by
  cases h
  exact answersStoredCode i _ f ⟨hs, rfl⟩

/-- Settles O47: CHECK of an incomplete frame is a block fault taken. -/
theorem checkIncompleteHalts : Obligations.CheckIncompleteHalts := by
  intro s hs hc
  have h := exec_check_of_incomplete hs (Fin.val_ne_of_ne hc)
  exact ⟨h, fun i _ ht => exec_after_raiseFault hs.1 (h ▸ ht) i⟩

end Sys2Proof.Machine
end

section
/-! The value decoder (43_decoder.md): DECODE's layout and its fields as numbers, and DECODE on a running block. -/

namespace Sys2Proof.Machine

/-! ### The layout (R170) -/

theorem decodeData_toNat (hi hd : Nat) (ti : Int) (td : Nat) (sign : Bool) :
    (decodeData hi hd ti td sign).toNat =
      hi % 2 ^ 13 + hd % 2 ^ 4 * 2 ^ 13 + (BitVec.ofInt 13 ti).toNat * 2 ^ 17 +
        td % 2 ^ 4 * 2 ^ 30 + sign.toNat * 2 ^ 34 := by
  have hti := (BitVec.ofInt 13 ti).isLt
  have hsign := sign.toNat_le
  rw [decodeData, BitVec.toNat_setWidth, toNat_append_eq, toNat_append_eq, toNat_append_eq,
    toNat_append_eq, BitVec.toNat_ofBool, BitVec.toNat_ofNat, BitVec.toNat_ofNat, BitVec.toNat_ofNat]
  omega

theorem decodeData_tmpIntField (hi hd : Nat) (ti : Int) (td : Nat) (sign : Bool) :
    (decodeData hi hd ti td sign).extractLsb' 17 13 = BitVec.ofInt 13 ti := by
  have hti := (BitVec.ofInt 13 ti).isLt
  rw [← BitVec.toNat_inj, toNat_field, decodeData_toNat]
  omega

theorem decodeData_tmpDecField (hi hd : Nat) (ti : Int) (td : Nat) (sign : Bool) :
    ((decodeData hi hd ti td sign).extractLsb' 30 4).toNat = td % 2 ^ 4 := by
  have hti := (BitVec.ofInt 13 ti).isLt
  rw [toNat_field, decodeData_toNat]
  omega

theorem decodeData_signBit (hi hd : Nat) (ti : Int) (td : Nat) (sign : Bool) :
    (decodeData hi hd ti td sign).getLsbD 34 = sign := by
  rw [decodeData, BitVec.getLsbD_setWidth, BitVec.getLsbD_append, BitVec.getLsbD_append,
    BitVec.getLsbD_append, BitVec.getLsbD_append]
  simp

/-! ### The temperature (R173) -/

theorem signFlag_toNat (t : BitVec 16) : (signFlag t).toNat = t.toNat / 2 ^ 15 := by
  have ht := t.isLt
  have h : t.toNat / 2 ^ 15 = 0 ∨ t.toNat / 2 ^ 15 = 1 := by omega
  rw [signFlag_eq]
  rcases h with h | h <;> rw [h] <;> rfl

theorem signFlag_iff_le (t : BitVec 16) : signFlag t = true ↔ 2 ^ 15 ≤ t.toNat := by
  have ht := t.isLt
  rw [signFlag_eq, decide_eq_true_iff]
  omega

/-- `tmp_int` in 13 bits: with the sign set, the two's complement of the magnitude's quotient. -/
theorem tmpIntBits_toNat (t : BitVec 16) :
    (BitVec.ofInt 13 (tmpInt t)).toNat =
      if t.toNat / 2 ^ 15 = 1 then (2 ^ 13 - t.toNat % 2 ^ 15 / 10) % 2 ^ 13
      else t.toNat % 2 ^ 15 / 10 := by
  simp only [BitVec.toNat_ofInt, tmpInt, signFlag_eq, magnitude_eq, decide_eq_true_eq]
  split_ifs <;> omega

/-- A magnitude below 10 has quotient 0, which has no negative (R175). -/
theorem tmpInt_eq_zero {t : BitVec 16} (h : magnitude t < 10) : tmpInt t = 0 := by
  simp [tmpInt, Nat.div_eq_of_lt h]

/-! ### The response as a number (R172, R173) -/

theorem readingData_eq_ofNat (h t : BitVec 16) :
    readingData h t =
      BitVec.ofNat 64
        (h.toNat / 10 + h.toNat % 10 * 2 ^ 13 +
          (if t.toNat / 2 ^ 15 = 1 then (2 ^ 13 - t.toNat % 2 ^ 15 / 10) % 2 ^ 13
           else t.toNat % 2 ^ 15 / 10) * 2 ^ 17 +
          t.toNat % 2 ^ 15 % 10 * 2 ^ 30 + t.toNat / 2 ^ 15 * 2 ^ 34) := by
  have hh := h.isLt
  have hhi : h.toNat / 10 % 2 ^ 13 = h.toNat / 10 := Nat.mod_eq_of_lt (by omega)
  have hhd : h.toNat % 10 % 2 ^ 4 = h.toNat % 10 := Nat.mod_eq_of_lt (by omega)
  have htd : t.toNat % 2 ^ 15 % 10 % 2 ^ 4 = t.toNat % 2 ^ 15 % 10 := Nat.mod_eq_of_lt (by omega)
  calc readingData h t
      = BitVec.ofNat 64 (readingData h t).toNat := by rw [BitVec.ofNat_toNat, BitVec.setWidth_eq]
    _ = _ := by rw [readingData, decodeData_toNat, humInt, humDec, tmpDec, magnitude_eq,
                  tmpIntBits_toNat, signFlag_toNat, hhi, hhd, htd]

/-! ### DECODE on a running block -/

/-- Settles O51: DECODE responds with its layout's number, or takes a block fault. -/
theorem decodeReturnsReading : Obligations.DecodeReturnsReading := by
  refine ⟨rfl, fun s hs hc => ?_, fun s hs hc => exec_decode_of_not_pass hs hc,
    answersStoredCode .decode⟩
  rw [exec_decode_of_pass hs hc, respond_eq, readingData_eq_ofNat]
  rfl

/-- Settles O54: the fields of the layout, with the quotient 0 and the remainder the magnitude itself. -/
theorem negativeTenthsKeepSign : Obligations.NegativeTenthsKeepSign := by
  intro s hs hc hmag
  have hlt : magnitude s.T < 10 := magnitude_eq s.T ▸ hmag
  refine ⟨_, _, exec_decode_of_pass hs hc, rfl, ?tmpInt, ?tmpDec, ?sign⟩
  case tmpInt =>
    rw [readingData, decodeData_tmpIntField, tmpInt_eq_zero hlt]
    rfl
  case tmpDec =>
    rw [readingData, decodeData_tmpDecField, tmpDec, magnitude_eq]
    omega
  case sign =>
    rw [readingData, decodeData_signBit, signFlag_iff_le]

end Sys2Proof.Machine
end

section
/-! Faults and exceptions (60_exceptions.md): each command's own fault condition, every command by it on a running block,
the wrapper around a step, and the ErrorKinds that a response can carry. -/

namespace Sys2Proof.Machine

/-! ### A command by its own fault condition (R201, R203) -/

/-- The block fault that a command raises on a running block, `none` where it completes: "the opcode's own condition" of
R203. The decoder refuses the phases without a row (entry 7), so no word reaches that case. -/
def commandFault : Instr → State → Option FaultCode
  | .append _, s => if s.cursor = 40 then some .appendOverflow else none
  | .classify p _, _ => if p.toNat ≤ 5 then none else some .illegalCmd
  | .check, s => if s.cursor = 40 then none else some .checkIncomplete
  | .decode, s => if s.chk = .pass then none else some .decodeUnvalidated
  | .reset, _ => none
  | .status, _ => none
  | .readframe, _ => none

/-- On a running block a command either raises the fault of its own condition or completes. -/
theorem exec_cases_of_ready {s : State} (hs : s.Ready) (i : Instr) :
    (∃ f, commandFault i s = some f ∧ exec i s = raiseFault f s) ∨
      (commandFault i s = none ∧ ∃ d, exec i s = respond d (completed i s)) := by
  cases i with
  | reset => exact .inr ⟨rfl, _, exec_reset hs⟩
  | status => exact .inr ⟨rfl, _, exec_status hs⟩
  | readframe => exact .inr ⟨rfl, _, exec_readframe hs⟩
  | append b =>
    by_cases hc : s.cursor = 40
    · exact .inl ⟨_, if_pos hc, exec_append_of_complete hs b (congrArg Fin.val hc)⟩
    · exact .inr ⟨if_neg hc, _, exec_append_of_incomplete hs b (Fin.val_ne_of_ne hc)⟩
  | check =>
    by_cases hc : s.cursor = 40
    · exact .inr ⟨if_pos hc, _, exec_check_of_complete hs (congrArg Fin.val hc)⟩
    · exact .inl ⟨_, if_neg hc, exec_check_of_incomplete hs (Fin.val_ne_of_ne hc)⟩
  | decode =>
    by_cases hc : s.chk = .pass
    · exact .inr ⟨if_pos hc, _, exec_decode_of_pass hs hc⟩
    · exact .inl ⟨_, if_neg hc, exec_decode_of_not_pass hs hc⟩
  | classify p t =>
    by_cases hp : p.toNat ≤ 5
    · obtain ⟨q, hq⟩ := exists_phase_of_code_le_five hp
      exact .inr ⟨if_pos hp, _, exec_classify_of_row hs t hq⟩
    · have hnone : Phase.ofCode p = none := (phase_ofCode_eq_none_iff p).mpr (by omega)
      exact .inl ⟨_, if_neg hp, exec_classify_of_no_row hs t hnone⟩

/-- The fault code of a running block's response is the number of the command's own condition, 0 for none. -/
theorem exec_rfault_of_ready {s : State} (hs : s.Ready) (i : Instr) :
    ∃ t r, exec i s = .next t ∧ t.response = some r ∧
      r.rfault = (commandFault i s).elim 0 FaultCode.code := by
  obtain ⟨f, hf, hexec⟩ | ⟨hf, d, hexec⟩ := exec_cases_of_ready hs i
  · exact ⟨_, _, hexec, rfl, by rw [hf]; rfl⟩
  · exact ⟨_, _, hexec, rfl, by rw [hf]; rfl⟩

/-! ### The wrapper around a step -/

section
variable {s : State} {w : CmdWord} {rest : List PortInput}

/-- A step at a legal word is its command on the state without that word. -/
theorem step_of_legal {i : Instr} (hp : s.port = .cmd w :: rest) (hd : decodeWord w = .ok i) :
    step s = exec i (s.setPort rest) := by
  simp only [step, takeInput_cons hp, hd]

/-- A halted block answers its stored code to every word, legal or not (R202). -/
theorem step_of_halted {f : FaultCode} (hs : s.Halted f) (hp : s.port = .cmd w :: rest) :
    step s = .next { s with port := rest, response := some ⟨f.code, 0⟩ } := by
  obtain ⟨hstarted, hfault⟩ := hs
  cases hd : decodeWord w with
  | error r =>
    rw [step_of_illegal hp hd]
    exact runCommand_of_halted (s := s.setPort rest) hstarted hfault
  | ok i =>
    rw [step_of_legal hp hd]
    exact exec_of_halted (s := s.setPort rest) ⟨hstarted, hfault⟩ i

end

/-- Settles O2: by the halted block, the illegal word and the command's own condition. -/
theorem faultWrapper : Obligations.FaultWrapper := by
  intro s w rest hs hp
  refine ⟨fun f hf => step_of_halted ⟨hs, hf⟩ hp,
    fun hf r hd => step_of_illegal_of_ready ⟨hs, hf⟩ hp hd, fun hf i hd => ?_⟩
  rw [step_of_legal hp hd]
  obtain ⟨f, -, hexec⟩ | ⟨-, d, hexec⟩ := exec_cases_of_ready (s := s.setPort rest) ⟨hs, hf⟩ i
  · exact ⟨_, hexec, .inr ⟨f, rfl⟩⟩
  · refine ⟨_, hexec, .inl ⟨?_, d, rfl⟩⟩
    rw [State.setResponse_fault, completed_fault]
    exact hf

/-- Settles O3: the word, the command and rst on a halted block. -/
theorem haltedBlockAnswersStoredCode : Obligations.HaltedBlockAnswersStoredCode :=
  fun s f hs => ⟨fun _ _ => step_of_halted hs, fun i => answersStoredCode i s f hs,
    fun _ hp => ⟨_, step_of_rst hp, rfl, rfl⟩⟩

/-- The own condition of a command that a word decodes to: CLASSIFY has none left. -/
theorem commandFault_elim_code_of_wellFormed {i : Instr} (hwf : i.wellFormed = true) (s : State) :
    (commandFault i s).elim 0 FaultCode.code =
      match i with
      | .append _ => if s.cursor = 40 then 2 else 0
      | .check => if s.cursor = 40 then 0 else 3
      | .decode => if s.chk = .pass then 0 else 4
      | _ => 0 := by
  cases i with
  | append b => simp only [commandFault]; split_ifs <;> rfl
  | check => simp only [commandFault]; split_ifs <;> rfl
  | decode => simp only [commandFault]; split_ifs <;> rfl
  | classify p t => rw [commandFault, if_pos (of_decide_eq_true hwf)]; rfl
  | _ => rfl

/-- Settles O4: the order of R203, with the command's own condition read only on a running block at a legal word. -/
theorem faultPriority : Obligations.FaultPriority := by
  intro s w rest hs hp
  cases hf : s.fault with
  | some f => exact ⟨_, _, step_of_halted ⟨hs, hf⟩ hp, rfl, rfl⟩
  | none =>
    cases hd : decodeWord w with
    | error r => exact ⟨_, _, step_of_illegal_of_ready ⟨hs, hf⟩ hp hd, rfl, rfl⟩
    | ok i =>
      obtain ⟨t, r, hexec, hr, hcode⟩ := exec_rfault_of_ready (s := s.setPort rest) ⟨hs, hf⟩ i
      refine ⟨t, r, (step_of_legal hp hd).trans hexec, hr, ?_⟩
      rw [hcode, commandFault_elim_code_of_wellFormed (decodeWord_wellFormed hd)]
      cases i <;> rfl

/-! ### The ErrorKinds in a response (R100, R150) -/

theorem classifyData_errKindField (r : PulseClass × Option ErrorKind) :
    (classifyData r).extractLsb' 4 3 = errCode r.2 := by
  have hclass := r.1.code.isLt
  have herr := (errCode r.2).isLt
  rw [← BitVec.toNat_inj, toNat_field, classifyData_eq_ofNat, BitVec.toNat_ofNat]
  omega

theorem classifyData_classField (r : PulseClass × Option ErrorKind) :
    (classifyData r).extractLsb' 0 2 = r.1.code := by
  have hclass := r.1.code.isLt
  have herr := (errCode r.2).isLt
  rw [← BitVec.toNat_inj, toNat_field, classifyData_eq_ofNat, BitVec.toNat_ofNat]
  omega

theorem checkData_errKindField (sum c : BitVec 8) (pass : Bool) :
    (checkData sum c pass).extractLsb' 20 3 = errCode (checkError pass) := by
  have hsum := sum.isLt
  have hc := c.isLt
  rw [← BitVec.toNat_inj, toNat_field, checkData_eq_ofNat, BitVec.toNat_ofNat]
  cases pass with
  | false =>
    change (sum.toNat + c.toNat * 2 ^ 8 + 6 * 2 ^ 20) % 2 ^ 64 / 2 ^ 20 % 2 ^ 3 = 6
    omega
  | true =>
    change (sum.toNat + c.toNat * 2 ^ 8 + 2 ^ 16) % 2 ^ 64 / 2 ^ 20 % 2 ^ 3 = 0
    omega

theorem checkData_passBit (sum c : BitVec 8) (pass : Bool) :
    (checkData sum c pass).getLsbD 16 = pass := by
  rw [checkData, BitVec.getLsbD_setWidth, BitVec.getLsbD_append, BitVec.getLsbD_append,
    BitVec.getLsbD_append]
  simp

/-- Settles O44: CLASSIFY of a legal phase and CHECK of a complete frame complete. -/
theorem errorKindIsData : Obligations.ErrorKindIsData := by
  refine ⟨fun s p t hs hp => ?classify, fun s hs hc hne => ?check⟩
  case classify =>
    obtain ⟨q, hq⟩ := exists_phase_of_code_le_five hp
    exact ⟨_, _, exec_classify_of_row hs t hq, rfl, hs⟩
  case check =>
    have hfail : passes s = false := Bool.eq_false_iff.mpr (mt (passes_iff_byteSum s).mp hne)
    have hexec := exec_check_of_complete hs (congrArg Fin.val hc)
    rw [hfail] at hexec
    exact ⟨_, _, hexec, rfl, hs, checkData_passBit _ _ _, checkData_errKindField _ _ _⟩

/-- No class has code 3 (R102). -/
theorem pulseClassCode_ne_three (v : PulseClass) : v.code ≠ 3 := by cases v <;> decide

/-- No phase's TIMEOUT reports one of the host's ErrorKinds (R107). -/
theorem timeoutNumber_le_four (q : Phase) : timeoutNumber q ≤ 4 := by cases q <;> decide

/-- A classification reports its phase's ErrorKind or none. -/
theorem errCode_classify_le_four (t : Nat) (row : PhaseRow) (q : Phase) :
    (errCode (classify t row q).2).toNat ≤ 4 := by
  by_cases hbound : t > row.bound
  · rw [classify_of_gt_bound hbound]
    exact timeoutNumber_le_four q
  · by_cases hthr : t ≤ row.thr
    · rw [classify_of_le_thr hbound hthr]
      decide
    · rw [classify_of_gt_thr hbound hthr]
      decide

/-- The data of a CLASSIFY that completes is that of a classification. -/
theorem exec_classify_next_data {s u : State} {p : BitVec 3} {t : BitVec 16} {d : RData}
    (h : exec (.classify p t) s = .next u) (hr : u.response = some ⟨0, d⟩) :
    ∃ q, d = classifyData (classify (elapsed t) (s.phaseTable.row q) q) := by
  obtain ⟨hs, -⟩ := ready_of_rfault_zero h hr
  cases hq : Phase.ofCode p with
  | none =>
    rw [exec_classify_of_no_row hs t hq] at h
    cases h
    cases hr
  | some q =>
    rw [exec_classify_of_row hs t hq] at h
    cases h
    cases hr
    exact ⟨q, rfl⟩

/-- The data of a CHECK that completes. -/
theorem exec_check_next_data {s u : State} {d : RData} (h : exec .check s = .next u)
    (hr : u.response = some ⟨0, d⟩) : d = checkData (checksum s.H s.T) s.C (passes s) := by
  obtain ⟨hs, -, -, hc⟩ := exec_next_of_fault_none h (exec_next_fault_none_of_rfault_zero h hr)
  rw [exec_check_of_complete hs (hc rfl)] at h
  cases h
  cases hr
  rfl

/-- Settles O45: by the ErrorKinds of a classification and of a comparison. -/
theorem hostErrorKindsNeverProduced : Obligations.HostErrorKindsNeverProduced := by
  refine ⟨fun s u p t d h hr => ?classify, fun s u d h hr => ?check⟩
  case classify =>
    obtain ⟨q, rfl⟩ := exec_classify_next_data h hr
    rw [classifyData_errKindField, classifyData_classField]
    exact ⟨errCode_classify_le_four _ _ q, pulseClassCode_ne_three _⟩
  case check =>
    rw [exec_check_next_data h hr, checkData_errKindField]
    cases passes s with
    | true => exact .inl rfl
    | false => exact .inr rfl

end Sys2Proof.Machine
end

section
/-! Reset and hazards (70_reset_and_hazards.md): every command is answered in its own step, and rst sets every
register. -/

namespace Sys2Proof.Machine

/-! ### What surrounds a command stays -/

theorem completed_sameSurroundings (i : Instr) (s : State) : s.SameSurroundings (completed i s) := by
  cases i with
  | append b =>
    obtain ⟨-, -, hsame⟩ := appended_frame b s
    exact hsame
  | _ => exact ⟨rfl, rfl, rfl⟩

theorem exec_next_sameSurroundings {i : Instr} {s t : State} (h : exec i s = .next t) :
    s.SameSurroundings t := by
  obtain ⟨-, ⟨f, -, rfl⟩ | ⟨-, f, rfl⟩ | ⟨-, ⟨d, rfl⟩, -⟩⟩ := exec_next_cases h
  · exact ⟨rfl, rfl, rfl⟩
  · exact ⟨rfl, rfl, rfl⟩
  · exact completed_sameSurroundings i s

theorem illegalCommand_next_sameSurroundings {s t : State} (h : illegalCommand s = .next t) :
    s.SameSurroundings t := by
  obtain ⟨-, ⟨f, -, rfl⟩ | ⟨-, hraise⟩⟩ := runCommand_next_cases h
  · exact ⟨rfl, rfl, rfl⟩
  · cases hraise
    exact ⟨rfl, rfl, rfl⟩

/-- A step at a command word takes that word from the port and leaves the rest of the surroundings, legal or not. -/
theorem step_next_sameSurroundings {s t : State} {w : CmdWord} {rest : List PortInput}
    (hp : s.port = .cmd w :: rest) (h : step s = .next t) : (s.setPort rest).SameSurroundings t := by
  cases hd : decodeWord w with
  | error r =>
    rw [step_of_illegal hp hd] at h
    exact illegalCommand_next_sameSurroundings h
  | ok i =>
    rw [step_of_legal hp hd] at h
    exact exec_next_sameSurroundings h

/-! ### The obligations -/

/-- Settles O7: the response and its code by the fault priority (O4), whose first case is the halted block; the port
and `started` by what surrounds a command. -/
theorem stepNeverStalls : Obligations.StepNeverStalls := by
  refine fun s hs => ⟨fun w rest hp => ?_, fun rest hp => ⟨_, step_of_rst hp, rfl, rfl⟩⟩
  obtain ⟨t, r, hstep, hresponse, hcode⟩ := faultPriority s w rest hs hp
  obtain ⟨-, hstarted, hport⟩ := step_next_sameSurroundings hp hstep
  refine ⟨t, r, hstep, hresponse, hstarted.trans hs, hport, fun f hf => ?_⟩
  rw [hcode, hf]

/-- Settles O10: a step at rst is `applyRst` on the state without that input. -/
theorem rstSetsEveryRegister : Obligations.RstSetsEveryRegister :=
  fun _ _ hp => ⟨_, step_of_rst hp, rfl, rfl, rfl, rfl, rfl, rfl, rfl⟩

end Sys2Proof.Machine
end

section
/-! The block's inputs (30_encoding.md, 60_exceptions.md section 1): the decoder and the encoder agree, the fault codes
as numbers, and what a step does with the input it takes. -/

namespace Sys2Proof.Machine

/-! ### Decode and encode (30_encoding.md sections 1, 5 and 6) -/

/-- Settles O21: the decoder undoes the encoder. -/
theorem decodeOfEncode : Obligations.DecodeOfEncode := fun _ => decodeWord_encode

/-- Settles O22: the decoder accepts only the words of well-formed commands. -/
theorem encodeOfDecode : Obligations.EncodeOfDecode := fun _ _ h => (decodeWord_eq_ok_iff.mp h).symm

/-- Settles O25: fifteen fixed words, computed. -/
theorem sampleWordsDecode : Obligations.SampleWordsDecode :=
  ⟨rfl, rfl, rfl, rfl, rfl, rfl, rfl, rfl, rfl, rfl, rfl, ⟨_, rfl⟩, ⟨_, rfl⟩, ⟨_, rfl⟩, ⟨_, rfl⟩⟩

/-! ### The fault codes (R200) -/

theorem faultCode_code_injective : Function.Injective FaultCode.code := by
  intro f g h
  cases f <;> cases g <;> revert h <;> decide

/-- Settles O5: the numbers are computed, and no two agree. -/
theorem faultCodeNumbers : Obligations.FaultCodeNumbers :=
  ⟨rfl, rfl, rfl, rfl, fun _ _ h => faultCode_code_injective h⟩

/-! ### A step by its input -/

/-- A step with nothing presented (R214, entry 3). -/
theorem step_of_nil {s : State} (h : s.port = []) : step s = .next s := by
  simp only [step, takeInput_nil h, idle]

/-- A word presented to a block that has never seen rst stops it, legal or not (R234). -/
theorem step_of_not_started {s : State} {w : CmdWord} {rest : List PortInput}
    (hs : s.started = false) (hp : s.port = .cmd w :: rest) : step s = .fault .notStarted := by
  cases hd : decodeWord w with
  | error r =>
    rw [step_of_illegal hp hd]
    exact runCommand_of_not_started (s := s.setPort rest) hs
  | ok i =>
    rw [step_of_legal hp hd]
    exact exec_of_not_started (s := s.setPort rest) hs i

/-- Settles O1: the step at a legal word. -/
theorem stepRunsDecodedInstruction : Obligations.StepRunsDecodedInstruction :=
  fun _ _ _ _ hp hd => step_of_legal hp hd

/-- Settles O8: the step with nothing presented. -/
theorem idleStepHoldsState : Obligations.IdleStepHoldsState := fun _ hp => step_of_nil hp

/-- Settles O9: the word, the command and rst on a block that has never seen rst. -/
theorem unstartedBlockExecutesNothing : Obligations.UnstartedBlockExecutesNothing :=
  fun _ hs => ⟨fun _ _ hp => step_of_not_started hs hp, fun i => exec_of_not_started hs i,
    fun _ hp => ⟨_, step_of_rst hp, ⟨rfl, rfl, rfl, rfl, rfl, rfl⟩, rfl, rfl⟩⟩

/-! ### rst and RESET (70_reset_and_hazards.md section 1) -/

/-- Settles O12: the fields of `State.resetWith` and the default rows. -/
theorem resetState : Obligations.ResetState := ⟨fun _ => rfl, rfl⟩

/-- Settles O11: RESET completes on a running block and is ignored by a halted one, and a second rst finds the reset
registers already there. -/
theorem rstAgainstReset : Obligations.RstAgainstReset := by
  refine ⟨fun s u hs hu => ?running, fun s u f hs hu => ?halted, fun s u v hu hv => ?twice⟩
  case running =>
    cases hu
    exact ⟨_, exec_reset hs, rfl, rfl, rfl, rfl, rfl, hs.2.symm⟩
  case halted =>
    cases hu
    refine ⟨rfl, _, exec_of_halted hs .reset, ⟨rfl, rfl, rfl, rfl, rfl, rfl⟩, ?_⟩
    rw [State.setResponse_fault, hs.2]
    exact Option.some_ne_none f
  case twice =>
    cases hu
    cases hv
    rfl

/-- Settles O16: the idle step and rst leave both fields, and so does whatever a word does. -/
theorem noStepWritesPhaseTable : Obligations.NoStepWritesPhaseTable := by
  intro s t h
  match hp : s.port with
  | [] =>
    rw [step_of_nil hp] at h
    cases h
    exact ⟨rfl, id⟩
  | .rst :: rest =>
    rw [step_of_rst hp] at h
    cases h
    exact ⟨rfl, fun _ => rfl⟩
  | .cmd w :: rest =>
    obtain ⟨htable, hstarted, -⟩ := step_next_sameSurroundings hp h
    exact ⟨htable, hstarted.trans⟩

end Sys2Proof.Machine
end

section
/-! The invariant of the reachable states (10_state.md sections 2 and 3): it speaks of the frame, the cursor and `chk`
only, so it is enough to follow the three commands that write them. -/

namespace Sys2Proof.Machine

/-! ### What writes none of its registers -/

theorem inv_setPort {s : State} {p : List PortInput} : (s.setPort p).Inv ↔ s.Inv := Iff.rfl

theorem inv_setResponse {s : State} {r : Response} : (s.setResponse r).Inv ↔ s.Inv := Iff.rfl

theorem inv_setFault {s : State} {f : FaultCode} : (s.setFault f).Inv ↔ s.Inv := Iff.rfl

theorem inv_applyRst {s : State} : s.applyRst.Inv ↔ s.clearFrame.Inv := Iff.rfl

/-! ### RESET, APPEND and CHECK -/

theorem frameBit_clearFrame (s : State) (j : Fin 40) : frameBit s.clearFrame j = false := by
  rw [frameBit_eq]
  simp

/-- A cleared frame meets the invariant, whatever stood there before. -/
theorem inv_clearFrame (s : State) : s.clearFrame.Inv :=
  ⟨fun h => absurd rfl h, fun j _ => frameBit_clearFrame s j, nofun, nofun⟩

/-- Before its last bit the frame has no verdict, so APPEND has only the unwritten bits to keep. -/
theorem inv_appended {s : State} (hs : s.Inv) (hc : s.cursor.val ≠ 40) (b : Bool) :
    (appended b s).Inv := by
  obtain ⟨hcomplete, hzero, -⟩ := hs
  have hlt : s.cursor.val < 40 := by omega
  have hnone : (appended b s).chk = .none := by
    obtain ⟨hchk, -⟩ := appended_frame b s
    by_contra hne
    exact hc (congrArg Fin.val (hcomplete (hchk ▸ hne)))
  refine ⟨fun hne => absurd hnone hne, fun j hj => ?unwritten, by simp [hnone], by simp [hnone]⟩
  rw [appended_cursor_val hc] at hj
  rw [frameBit_appended hlt, if_neg (by omega)]
  exact hzero j (by omega)

theorem chkOfPass_eq_fail_iff (pass : Bool) : chkOfPass pass = .fail ↔ pass = false := by
  cases pass <;> decide

/-- CHECK of a complete frame writes the verdict that is true of it. -/
theorem inv_check {s : State} (hs : s.Inv) (hc : s.cursor.val = 40) :
    (s.setChk (chkOfPass (passes s))).Inv := by
  obtain ⟨-, hzero, -⟩ := hs
  refine ⟨fun _ => Fin.ext hc, hzero, fun hpass => ?_, fun hfail => ?_⟩
  · exact (passes_iff s).mp ((chkOfPass_eq_pass_iff _).mp hpass)
  · exact beq_eq_false_iff_ne.mp ((chkOfPass_eq_fail_iff _).mp hfail)

/-! ### Commands and steps -/

theorem exec_next_inv {i : Instr} {s t : State} (hs : s.Inv) (h : exec i s = .next t) : t.Inv := by
  obtain ⟨-, ⟨f, -, rfl⟩ | ⟨-, f, rfl⟩ | ⟨-, ⟨d, rfl⟩, happend, hcheck, -⟩⟩ := exec_next_cases h
  · exact inv_setResponse.mpr hs
  · exact inv_setResponse.mpr (inv_setFault.mpr hs)
  · rw [inv_setResponse]
    cases i with
    | reset => exact inv_clearFrame s
    | append b => exact inv_appended hs (happend b rfl) b
    | check => exact inv_check hs (hcheck rfl)
    | _ => exact hs

theorem illegalCommand_next_inv {s t : State} (hs : s.Inv) (h : illegalCommand s = .next t) :
    t.Inv := by
  obtain ⟨-, ⟨f, -, rfl⟩ | ⟨-, hraise⟩⟩ := runCommand_next_cases h
  · exact inv_setResponse.mpr hs
  · cases hraise
    exact inv_setResponse.mpr (inv_setFault.mpr hs)

/-- Settles O14: by what a step can do, with a command's next state by what the command can do. -/
theorem stepKeepsInvariant : Obligations.StepKeepsInvariant := by
  intro s t hs h
  obtain ⟨-, hstep⟩ | ⟨rest, -, hstep⟩ | ⟨-, rest, -, -, -, hstep⟩ | ⟨-, rest, i, -, -, hstep⟩ :=
    step_cases s <;> rw [hstep] at h
  case inl =>
    cases h
    exact hs
  case inr.inl =>
    cases h
    exact inv_applyRst.mpr (inv_clearFrame _)
  case inr.inr.inl => exact illegalCommand_next_inv (inv_setPort.mpr hs) h
  case inr.inr.inr => exact exec_next_inv (inv_setPort.mpr hs) h

/-- Settles O13: at reset the frame is a cleared one. -/
theorem resetMeetsInvariant : Obligations.ResetMeetsInvariant :=
  ⟨fun pt => inv_clearFrame (.resetWith pt), inv_clearFrame .reset⟩

/-! ### DECODE on a state that meets the invariant -/

/-- A DECODE that answers code 0 found PASS on a running block and answers the reading of its frame. -/
theorem exec_decode_next_data {s t : State} {d : RData} (h : exec .decode s = .next t)
    (hr : t.response = some ⟨0, d⟩) : s.chk = .pass ∧ d = readingData s.H s.T := by
  obtain ⟨hs, -⟩ := ready_of_rfault_zero h hr
  by_cases hc : s.chk = .pass
  · rw [exec_decode_of_pass hs hc] at h
    cases h
    cases hr
    exact ⟨hc, rfl⟩
  · rw [exec_decode_of_not_pass hs hc] at h
    cases h
    cases hr

/-- Settles O15: DECODE asks for PASS only, and the invariant says what PASS means. -/
theorem readingOnlyFromValidatedFrame : Obligations.ReadingOnlyFromValidatedFrame := by
  rintro s t d ⟨hcomplete, -, hmatch, -⟩ h hr
  obtain ⟨hpass, -⟩ := exec_decode_next_data h hr
  refine ⟨hcomplete (by simp [hpass]), ?_⟩
  rw [← checksum_toNat_eq_byteSum, hmatch hpass]

end Sys2Proof.Machine
end

section
/-! What a command writes and what it reads (10_state.md section 1, 20_memory.md section 6, 30_encoding.md section 4):
the writers of each register, the data of each response, and that a step depends on the block and its input alone. -/

namespace Sys2Proof.Machine

/-! ### The writers of each register (10_state.md section 1) -/

theorem appended_H {s : State} (h : ¬ s.cursor.val ≤ 15) (b : Bool) : (appended b s).H = s.H := by
  by_cases hT : s.cursor.val ≤ 31
  · rw [appended_of_temperature (by omega) hT]
  · rw [appended_of_checksum (by omega)]

theorem appended_T {s : State} (h : ¬ (16 ≤ s.cursor.val ∧ s.cursor.val ≤ 31)) (b : Bool) :
    (appended b s).T = s.T := by
  by_cases hH : s.cursor.val ≤ 15
  · rw [appended_of_humidity hH]
  · rw [appended_of_checksum (by omega)]

theorem appended_C {s : State} (h : ¬ 32 ≤ s.cursor.val) (b : Bool) : (appended b s).C = s.C := by
  by_cases hH : s.cursor.val ≤ 15
  · rw [appended_of_humidity hH]
  · rw [appended_of_temperature (by omega) (by omega)]

theorem chkOfPass_ne_none (pass : Bool) : chkOfPass pass ≠ .none := by cases pass <;> decide

/-- The registers that a completion changes, by the command. -/
theorem completed_writers (i : Instr) (s : State) (happend : ∀ b, i = .append b → s.cursor.val ≠ 40) :
    ((completed i s).H ≠ s.H → i = .reset ∨ ((∃ b, i = .append b) ∧ s.cursor.val ≤ 15)) ∧
    ((completed i s).T ≠ s.T →
      i = .reset ∨ ((∃ b, i = .append b) ∧ 16 ≤ s.cursor.val ∧ s.cursor.val ≤ 31)) ∧
    ((completed i s).C ≠ s.C →
      i = .reset ∨ ((∃ b, i = .append b) ∧ 32 ≤ s.cursor.val ∧ s.cursor.val ≤ 39)) ∧
    ((completed i s).cursor ≠ s.cursor → (i = .reset ∧ (completed i s).cursor = 0) ∨
      ((∃ b, i = .append b) ∧ (completed i s).cursor.val = s.cursor.val + 1)) ∧
    ((completed i s).chk ≠ s.chk → (i = .reset ∧ (completed i s).chk = .none) ∨
      (i = .check ∧ (completed i s).chk ≠ .none)) := by
  cases i with
  | reset =>
    exact ⟨fun _ => .inl rfl, fun _ => .inl rfl, fun _ => .inl rfl, fun _ => .inl ⟨rfl, rfl⟩,
      fun _ => .inl ⟨rfl, rfl⟩⟩
  | append b =>
    have hc : s.cursor.val ≠ 40 := happend b rfl
    obtain ⟨hchk, -⟩ := appended_frame b s
    refine ⟨fun h => .inr ⟨⟨b, rfl⟩, ?_⟩, fun h => .inr ⟨⟨b, rfl⟩, ?_⟩,
      fun h => .inr ⟨⟨b, rfl⟩, ?_, by omega⟩,
      fun _ => .inr ⟨⟨b, rfl⟩, appended_cursor_val hc b⟩, absurd hchk⟩
    · exact not_imp_comm.mp (appended_H · b) h
    · exact not_imp_comm.mp (appended_T · b) h
    · exact not_imp_comm.mp (appended_C · b) h
  | check =>
    exact ⟨absurd rfl, absurd rfl, absurd rfl, absurd rfl,
      fun _ => .inr ⟨rfl, chkOfPass_ne_none (passes s)⟩⟩
  | _ => exact ⟨absurd rfl, absurd rfl, absurd rfl, absurd rfl, absurd rfl⟩

/-- Settles O18: an answer of a halted block writes nothing, a fault taken `fault` only, and a completed command what
its completion writes. -/
theorem registersChangeOnlyByTheirWriters : Obligations.RegistersChangeOnlyByTheirWriters := by
  intro i s t h
  have hsame := exec_next_sameSurroundings h
  obtain ⟨-, ⟨f, -, rfl⟩ | ⟨-, f, rfl⟩ | ⟨-, ⟨d, rfl⟩, happend, -⟩⟩ := exec_next_cases h
  case inl =>
    exact ⟨absurd rfl, absurd rfl, absurd rfl, absurd rfl, absurd rfl, absurd rfl, hsame⟩
  case inr.inl =>
    exact ⟨absurd rfl, absurd rfl, absurd rfl, absurd rfl, absurd rfl, fun _ => ⟨f, rfl⟩, hsame⟩
  case inr.inr =>
    obtain ⟨hH, hT, hC, hcursor, hchk⟩ := completed_writers i s happend
    exact ⟨hH, hT, hC, hcursor, hchk, absurd (completed_fault i s), hsame⟩

/-! ### The data of a completed command -/

/-- The data that a completed command answers (R80). A phase without a row completes nothing. -/
def responseData : Instr → State → RData
  | .reset, _ => 0
  | .append _, s => appendData (nextCursor s.cursor)
  | .status, s => statusData s.cursor s.chk
  | .classify p t, s =>
    match Phase.ofCode p with
    | some q => classifyData (classify (elapsed t) (s.phaseTable.row q) q)
    | none => 0
  | .check, s => checkData (checksum s.H s.T) s.C (passes s)
  | .decode, s => readingData s.H s.T
  | .readframe, s => readFrameData (frame40 s) s.cursor s.chk

/-- A running block takes the fault of the command's own condition, or completes the command with its data. -/
theorem exec_of_ready {s : State} (hs : s.Ready) (i : Instr) :
    exec i s =
      match commandFault i s with
      | some f => raiseFault f s
      | none => respond (responseData i s) (completed i s) := by
  obtain ⟨f, hf, hexec⟩ | ⟨hnone, d, hexec⟩ := exec_cases_of_ready hs i
  · rw [hf, hexec]
  · rw [hnone]
    cases i with
    | reset => exact exec_reset hs
    | status => exact exec_status hs
    | readframe => exact exec_readframe hs
    | append b =>
      have hc : s.cursor ≠ 40 := by simpa [commandFault] using hnone
      exact exec_append_of_incomplete hs b (Fin.val_ne_of_ne hc)
    | check =>
      have hc : s.cursor = 40 := by simpa [commandFault] using hnone
      exact exec_check_of_complete hs (congrArg Fin.val hc)
    | decode =>
      have hc : s.chk = .pass := by simpa [commandFault] using hnone
      exact exec_decode_of_pass hs hc
    | classify p t =>
      have hp : p.toNat ≤ 5 := by simpa [commandFault] using hnone
      obtain ⟨q, hq⟩ := exists_phase_of_code_le_five hp
      rw [exec_classify_of_row hs t hq, responseData, hq]
      rfl

/-- A next state carries a fault code with data 0, or code 0 with the command's data. -/
theorem exec_next_response {i : Instr} {s t : State} (h : exec i s = .next t) :
    (∃ f : FaultCode, t.response = some ⟨f.code, 0⟩) ∨ t.response = some ⟨0, responseData i s⟩ := by
  obtain ⟨hs, -⟩ := exec_next_cases h
  cases hf : s.fault with
  | some f =>
    rw [exec_of_halted ⟨hs, hf⟩] at h
    cases h
    exact .inl ⟨f, rfl⟩
  | none =>
    rw [exec_of_ready ⟨hs, hf⟩] at h
    split at h
    · cases h
      exact .inl ⟨_, rfl⟩
    · cases h
      exact .inr rfl

/-! ### The listed bits (R80)

A mask is a concatenation of ones and zeros field by field, and a layout has a field or zeros in the same places. -/

theorem appendData_and_listedBits (b : Bool) (k : Fin 41) :
    appendData k &&& listedBits (.append b) = appendData k := by
  change appendData k &&& (BitVec.allOnes 1 ++ BitVec.allOnes 6).setWidth 64 = _
  simp only [appendData, ← BitVec.setWidth_and, BitVec.and_append, BitVec.and_allOnes]

theorem statusData_and_listedBits (k : Fin 41) (v : Chk) :
    statusData k v &&& listedBits .status = statusData k v := by
  change statusData k v &&&
    (BitVec.allOnes 2 ++ 0#1 ++ BitVec.allOnes 1 ++ BitVec.allOnes 6).setWidth 64 = _
  simp only [statusData, ← BitVec.setWidth_and, BitVec.and_append, BitVec.and_allOnes, BitVec.and_zero]

theorem classifyData_and_listedBits (p : BitVec 3) (t : BitVec 16)
    (r : PulseClass × Option ErrorKind) :
    classifyData r &&& listedBits (.classify p t) = classifyData r := by
  change classifyData r &&& (BitVec.allOnes 3 ++ 0#2 ++ BitVec.allOnes 2).setWidth 64 = _
  simp only [classifyData, ← BitVec.setWidth_and, BitVec.and_append, BitVec.and_allOnes, BitVec.and_zero]

theorem checkData_and_listedBits (sum c : BitVec 8) (pass : Bool) :
    checkData sum c pass &&& listedBits .check = checkData sum c pass := by
  change checkData sum c pass &&&
    (BitVec.allOnes 3 ++ 0#3 ++ BitVec.allOnes 1 ++ BitVec.allOnes 8 ++ BitVec.allOnes 8).setWidth 64 = _
  simp only [checkData, ← BitVec.setWidth_and, BitVec.and_append, BitVec.and_allOnes, BitVec.and_zero]

theorem readingData_and_listedBits (h t : BitVec 16) :
    readingData h t &&& listedBits .decode = readingData h t := by
  change readingData h t &&& (BitVec.allOnes 1 ++ BitVec.allOnes 4 ++ BitVec.allOnes 13 ++
    BitVec.allOnes 4 ++ BitVec.allOnes 13).setWidth 64 = _
  simp only [readingData, decodeData, ← BitVec.setWidth_and, BitVec.and_append, BitVec.and_allOnes]

theorem readFrameData_and_listedBits (frame : BitVec 40) (k : Fin 41) (v : Chk) :
    readFrameData frame k v &&& listedBits .readframe = readFrameData frame k v := by
  change readFrameData frame k v &&&
    (BitVec.allOnes 2 ++ BitVec.allOnes 6 ++ BitVec.allOnes 40).setWidth 64 = _
  simp only [readFrameData, ← BitVec.setWidth_and, BitVec.and_append, BitVec.and_allOnes]

/-- A command's data has only listed bits. -/
theorem responseData_and_listedBits (i : Instr) (s : State) :
    responseData i s &&& listedBits i = responseData i s := by
  cases i with
  | reset => exact BitVec.zero_and
  | append b => exact appendData_and_listedBits b _
  | status => exact statusData_and_listedBits _ _
  | classify p t =>
    rw [responseData]
    cases Phase.ofCode p with
    | some q => exact classifyData_and_listedBits p t _
    | none => exact BitVec.zero_and
  | check => exact checkData_and_listedBits _ _ _
  | decode => exact readingData_and_listedBits _ _
  | readframe => exact readFrameData_and_listedBits _ _ _

theorem faultCode_le_four (f : FaultCode) : f.code.toNat ≤ 4 := by cases f <;> decide

/-- Settles O20: a fault code comes with data 0, and the data of a completed command has only listed bits. -/
theorem responseShape : Obligations.ResponseShape := by
  intro i s t h
  obtain ⟨f, hr⟩ | hr := exec_next_response h
  · exact ⟨_, hr, faultCode_le_four f, fun _ => rfl, fun hzero => absurd hzero (faultCode_ne_zero f)⟩
  · refine ⟨_, hr, Nat.zero_le _, absurd rfl, fun _ => ?_⟩
    calc responseData i s &&& ~~~(listedBits i)
        = responseData i s &&& (listedBits i &&& ~~~(listedBits i)) := by
          rw [← BitVec.and_assoc, responseData_and_listedBits]
      _ = 0 := by simp

/-! ### What a step depends on (20_memory.md section 6) -/

/-- Two outcomes show the host the same: the same registers and response, or the same stop. -/
def AnswersAlike (a b : Result) : Prop :=
  (∀ t, a = .next t → ∃ v, b = .next v ∧ t.SameBlock v ∧ v.response = t.response) ∧
  (∀ f, a = .fault f → b = .fault f)

theorem answersAlike_next {t v : State} (h : t.SameBlock v) (hr : v.response = t.response) :
    AnswersAlike (.next t) (.next v) := by
  refine ⟨fun t' ht => ?_, nofun⟩
  cases ht
  exact ⟨v, rfl, h, hr⟩

theorem answersAlike_refl_fault (f : Fault) : AnswersAlike (.fault f) (.fault f) :=
  ⟨nofun, fun _ h => h⟩

/-- Two blocks in one condition differ at most in their ports and last responses. -/
theorem exists_eq_of_sameBlock {s u : State} (h : s.SameBlock u) :
    ∃ p r, u = { s with port := p, response := r } := by
  obtain ⟨⟨hH, hT, hC, hcursor, hchk, hfault⟩, htable, hstarted⟩ := h
  refine ⟨u.port, u.response, ?_⟩
  rw [← hH, ← hT, ← hC, ← hcursor, ← hchk, ← hfault, ← htable, ← hstarted]

theorem sameBlock_with (s : State) (p : List PortInput) (r : Option Response) :
    s.SameBlock { s with port := p, response := r } :=
  ⟨⟨rfl, rfl, rfl, rfl, rfl, rfl⟩, rfl, rfl⟩

/-- No completion reads the port or the last response. -/
theorem completed_with (i : Instr) (s : State) (p : List PortInput) (r : Option Response) :
    completed i { s with port := p, response := r } =
      { completed i s with port := p, response := r } := by
  cases i with
  | append b =>
    simp only [completed_append, appended, writeFrameBit]
    split_ifs <;> rfl
  | _ => rfl

/-- A command may be wrapped again: the wrapper's two answers are those of the command itself. -/
theorem exec_eq_runCommand (i : Instr) (s : State) : exec i s = runCommand (exec i) s := by
  cases hs : s.started with
  | false => rw [runCommand_of_not_started hs, exec_of_not_started hs]
  | true =>
    cases hf : s.fault with
    | some f => rw [runCommand_of_halted hs hf, exec_of_halted ⟨hs, hf⟩]
    | none => rw [runCommand_of_ready hs hf]

section
variable {s u : State} (h : s.SameBlock u)
include h

theorem raiseFault_answersAlike (f : FaultCode) :
    AnswersAlike (raiseFault f s) (raiseFault f u) := by
  obtain ⟨p, r, rfl⟩ := exists_eq_of_sameBlock h
  exact answersAlike_next (sameBlock_with _ p _) rfl

theorem answerHalted_answersAlike (f : FaultCode) :
    AnswersAlike (answerHalted f s) (answerHalted f u) :=
  answersAlike_next h rfl

/-- On a running block the fault condition, the data and the completion are read from the block alone. -/
theorem exec_of_ready_answersAlike (hs : s.Ready) (i : Instr) :
    AnswersAlike (exec i s) (exec i u) := by
  obtain ⟨p, r, rfl⟩ := exists_eq_of_sameBlock h
  have hfault : commandFault i { s with port := p, response := r } = commandFault i s := by
    cases i <;> rfl
  have hdata : responseData i { s with port := p, response := r } = responseData i s := by
    cases i <;> rfl
  rw [exec_of_ready hs, exec_of_ready (s := { s with port := p, response := r }) hs, hfault, hdata,
    completed_with i s p r]
  cases commandFault i s with
  | some f => exact raiseFault_answersAlike h f
  | none => exact answersAlike_next (sameBlock_with _ p _) rfl

/-- The wrapper reads the block alone too, so it is enough that the bodies answer alike on a running one. -/
theorem runCommand_answersAlike {body body' : State → Result}
    (hbody : s.Ready → AnswersAlike (body s) (body' u)) :
    AnswersAlike (runCommand body s) (runCommand body' u) := by
  obtain ⟨⟨-, -, -, -, -, hfault⟩, -, hstarted⟩ := id h
  cases hs : s.started with
  | false =>
    rw [runCommand_of_not_started hs, runCommand_of_not_started (hstarted.trans hs)]
    exact answersAlike_refl_fault _
  | true =>
    cases hf : s.fault with
    | some f =>
      rw [runCommand_of_halted hs hf, runCommand_of_halted (hstarted.trans hs) (hfault.trans hf)]
      exact answerHalted_answersAlike h f
    | none =>
      rw [runCommand_of_ready hs hf, runCommand_of_ready (hstarted.trans hs) (hfault.trans hf)]
      exact hbody ⟨hs, hf⟩

theorem illegalCommand_answersAlike : AnswersAlike (illegalCommand s) (illegalCommand u) :=
  runCommand_answersAlike h fun _ => raiseFault_answersAlike h .illegalCmd

theorem exec_answersAlike (i : Instr) : AnswersAlike (exec i s) (exec i u) := by
  rw [exec_eq_runCommand i s, exec_eq_runCommand i u]
  exact runCommand_answersAlike h fun hs => exec_of_ready_answersAlike h hs i

end

/-- Settles O17: by the input, with rst answering nothing. -/
theorem stepDependsOnBlockAndInput : Obligations.StepDependsOnBlockAndInput := by
  intro s u i rs ru h hps hpu
  have h' : (s.setPort rs).SameBlock (u.setPort ru) := h
  change AnswersAlike (step s) (step u)
  cases i with
  | rst =>
    obtain ⟨-, htable, -⟩ := h
    rw [step_of_rst hps, step_of_rst hpu]
    exact answersAlike_next ⟨⟨rfl, rfl, rfl, rfl, rfl, rfl⟩, htable, rfl⟩ rfl
  | cmd w =>
    cases hd : decodeWord w with
    | error r =>
      rw [step_of_illegal hps hd, step_of_illegal hpu hd]
      exact illegalCommand_answersAlike h'
    | ok j =>
      rw [step_of_legal hps hd, step_of_legal hpu hd]
      exact exec_answersAlike h' j

end Sys2Proof.Machine
end

section
/-! The pulse classifier's corners (40_classifier.md sections 1 to 5): the words that CLASSIFY refuses, ties, and the two
ends of the elapsed time. -/

namespace Sys2Proof.Machine

/-! ### The refused forms (40_classifier.md section 1) -/

/-- CLASSIFY's opcode with phase 6 or 7 or with `b` set is no command (R76). -/
theorem decodeWord_classifyForm_error {t : BitVec 16} {p : BitVec 3} {b : Bool}
    (h : 6 ≤ p.toNat ∨ b = true) : ∃ r, decodeWord (assembleWord t p b 3) = .error r := by
  rw [decodeWord_eq_error_iff, ← opField_toNat, ← bField_toNat, ← phaseField_toNat,
    opField_assembleWord, bField_assembleWord, phaseField_assembleWord]
  obtain hp | rfl := h
  · exact .inr (.inr (.inr (.inr (.inr ⟨rfl, hp⟩))))
  · exact .inr (.inr (.inr (.inl ⟨rfl, by decide⟩)))

/-- Settles O38: as a word such a form decodes to nothing, as a command it selects no row. -/
theorem classifyIllegalForms : Obligations.ClassifyIllegalForms := by
  refine ⟨fun s t p b rest hs h hp => ?_, fun s t p hs h => ?_⟩
  · obtain ⟨r, hd⟩ := decodeWord_classifyForm_error (t := t) h
    exact step_of_illegal_of_ready hs hp hd
  · exact exec_classify_of_no_row hs t ((phase_ofCode_eq_none_iff p).mpr h)

/-! ### The number of a classification (R102) -/

theorem classifyNumber_of_timeout {t : BitVec 16} {row : PhaseRow} (h : row.bound < t.toNat)
    (err : Nat) : classifyNumber t row err = 16 * err + 2 := if_pos h

/-- The three outcomes: TIMEOUT, SHORT and LONG. -/
theorem classifyNumber_cases (t : BitVec 16) (row : PhaseRow) (err : Nat) :
    (row.bound < t.toNat ∧ classifyNumber t row err = 16 * err + 2) ∨
    (t.toNat ≤ row.bound ∧ t.toNat ≤ row.thr ∧ classifyNumber t row err = 0) ∨
    (t.toNat ≤ row.bound ∧ row.thr < t.toNat ∧ classifyNumber t row err = 1) := by
  unfold classifyNumber
  split_ifs with hbound hthr
  · exact .inl ⟨hbound, rfl⟩
  · exact .inr (.inl ⟨not_lt.mp hbound, hthr, rfl⟩)
  · exact .inr (.inr ⟨not_lt.mp hbound, not_le.mp hthr, rfl⟩)

section
variable (t : BitVec 16) (row : PhaseRow) (err : Nat)

/-- LONG is the data 1. -/
theorem ofNat_classifyNumber_eq_one_iff :
    BitVec.ofNat 64 (classifyNumber t row err) = 1 ↔ row.thr < t.toNat ∧ t.toNat ≤ row.bound := by
  have hcases := classifyNumber_cases t row err
  rw [← BitVec.toNat_inj, BitVec.toNat_ofNat]
  change _ = 1 ↔ _
  omega

/-- SHORT is the data 0. -/
theorem ofNat_classifyNumber_eq_zero_iff :
    BitVec.ofNat 64 (classifyNumber t row err) = 0 ↔ t.toNat ≤ row.thr ∧ t.toNat ≤ row.bound := by
  have hcases := classifyNumber_cases t row err
  rw [← BitVec.toNat_inj, BitVec.toNat_ofNat]
  change _ = 0 ↔ _
  omega

/-- TIMEOUT is the class 2. -/
theorem classField_eq_two_iff :
    (BitVec.ofNat 64 (classifyNumber t row err)).extractLsb' 0 2 = 2 ↔ row.bound < t.toNat := by
  have hcases := classifyNumber_cases t row err
  rw [← BitVec.toNat_inj, toNat_field, BitVec.toNat_ofNat]
  change _ = 2 ↔ _
  omega

/-- LONG is the class 1. -/
theorem classField_eq_one_iff :
    (BitVec.ofNat 64 (classifyNumber t row err)).extractLsb' 0 2 = 1 ↔
      row.thr < t.toNat ∧ t.toNat ≤ row.bound := by
  have hcases := classifyNumber_cases t row err
  rw [← BitVec.toNat_inj, toNat_field, BitVec.toNat_ofNat]
  change _ = 1 ↔ _
  omega

end

/-- Settles O39: a tie is not beyond the bound, so the threshold decides. -/
theorem tiesAreShorter : Obligations.TiesAreShorter := by
  intro s u p row err t hs hrow h
  rw [classifyComputesClass s p row err t hs hrow] at h
  cases h
  refine ⟨fun hthr hle => ?thr, fun hbound => ?bound⟩
  case thr => rw [(ofNat_classifyNumber_eq_zero_iff t row err).mpr (by omega)]
  case bound =>
    split_ifs with hle
    · rw [(ofNat_classifyNumber_eq_zero_iff t row err).mpr (by omega)]
    · rw [(ofNat_classifyNumber_eq_one_iff t row err).mpr (by omega)]

/-- The default rows of phases 0 to 3 have one figure for both ends (R101). -/
theorem defaults_bound_le_thr {q : Phase} (h : q.code.toNat ≤ 3) :
    (PhaseTable.defaults.row q).bound ≤ (PhaseTable.defaults.row q).thr := by
  cases q <;> revert h <;> decide

/-- Settles O40: with no room between threshold and bound, what is beyond the one is beyond the other. -/
theorem noLongWhenThresholdReachesBound : Obligations.NoLongWhenThresholdReachesBound := by
  intro s u p row err t d hs hrow h hr hcases
  rw [classifyComputesClass s p row err t hs hrow] at h
  cases h
  cases hr
  have hle : row.bound ≤ row.thr := by
    obtain hle | ⟨htable, hp⟩ := hcases
    · exact hle
    · obtain ⟨q, rfl, rfl, -⟩ := exists_phase_of_mem_phaseRows hrow
      rw [htable]
      exact defaults_bound_le_thr hp
  rw [Ne, classField_eq_one_iff]
  omega

/-- Settles O42: 0 is beyond no figure, and 65535 beyond every smaller bound. -/
theorem elapsedTimeEnds : Obligations.ElapsedTimeEnds := by
  intro s p row err hs hrow
  refine ⟨?_, fun hbound => ?_⟩
  · rw [classifyComputesClass s p row err 0 hs hrow,
      (ofNat_classifyNumber_eq_zero_iff 0 row err).mpr ⟨Nat.zero_le _, Nat.zero_le _⟩]
  · rw [classifyComputesClass s p row err 0xFFFF hs hrow, classifyNumber_of_timeout hbound]

/-- Settles O43: the high phase `h` against 40 and 100, and `h + 50` against 110 and 170. -/
theorem bitPhasesDisagree : Obligations.BitPhasesDisagree := by
  intro s h hs hhigh hcombined hsum
  have h50 : (h + 50).toNat = h.toNat + 50 := by
    rw [BitVec.toNat_add]
    exact Nat.mod_eq_of_lt hsum
  refine ⟨_, _, classifyComputesClass s 4 ⟨40, 100⟩ 4 h hs (by simp [hhigh]),
    classifyComputesClass s 5 ⟨110, 170⟩ 4 (h + 50) hs (by simp [hcombined]),
    ofNat_classifyNumber_eq_one_iff _ _ _, ?_, classField_eq_two_iff _ _ _, ?_⟩
  · rw [ofNat_classifyNumber_eq_zero_iff, h50]
    change h.toNat + 50 ≤ 110 ∧ h.toNat + 50 ≤ 170 ↔ _
    omega
  · rw [classField_eq_two_iff, h50]
    change 170 < h.toNat + 50 ↔ _
    omega

end Sys2Proof.Machine
end

section
/-! The checksum validator against corruption (42_checksum.md section 2): the frame as five bytes, of which a single
flipped bit changes exactly one. -/

namespace Sys2Proof.Machine

/-! ### The bytes of a frame -/

/-- Byte `k` of a frame, byte 0 the least significant: `C`, then the two bytes of `T`, then the two of `H` (R26). -/
def frameByte (v : BitVec 40) (k : Nat) : BitVec 8 := v.extractLsb' (8 * k) 8

theorem frameByte_toNat (v : BitVec 40) (k : Nat) :
    (frameByte v k).toNat = v.toNat / 2 ^ (8 * k) % 2 ^ 8 := by
  rw [frameByte, BitVec.extractLsb'_toNat, Nat.shiftRight_eq_div_pow]

theorem frameByte_frame40 (s : State) :
    frameByte (frame40 s) 4 = hiByte s.H ∧ frameByte (frame40 s) 3 = loByte s.H ∧
    frameByte (frame40 s) 2 = hiByte s.T ∧ frameByte (frame40 s) 1 = loByte s.T ∧
    frameByte (frame40 s) 0 = s.C := by
  have hT := s.T.isLt
  have hC := s.C.isLt
  refine ⟨?_, ?_, ?_, ?_, ?_⟩ <;>
    simp only [← BitVec.toNat_inj, frameByte_toNat, frame40_toNat, hiByte_toNat, loByte_toNat] <;>
    omega

/-- A frame passes when its four upper bytes add up to the lowest one (R152). -/
theorem passes_iff_frameByte (s : State) :
    passes s = true ↔
      frameByte (frame40 s) 4 + frameByte (frame40 s) 3 + frameByte (frame40 s) 2 +
        frameByte (frame40 s) 1 = frameByte (frame40 s) 0 := by
  obtain ⟨h4, h3, h2, h1, h0⟩ := frameByte_frame40 s
  rw [passes_iff, checksum_eq_add, h4, h3, h2, h1, h0]

/-- A single bit is in byte `i / 8` and in no other. -/
theorem frameByte_twoPow_eq_zero_iff {i k : Nat} (hi : i < 40) :
    frameByte (BitVec.twoPow 40 i) k = 0 ↔ i / 8 ≠ k := by
  refine ⟨?_, fun hne => BitVec.eq_of_getLsbD_eq fun j hj => ?_⟩
  · rintro hzero rfl
    have hbit := congrArg (BitVec.getLsbD · (i % 8)) hzero
    simp [frameByte, hi, Nat.div_add_mod, Nat.mod_lt] at hbit
  · have : i ≠ 8 * k + j := by omega
    simp [frameByte, this]

/-- Flipping bit `i` changes byte `i / 8` and no other. -/
theorem frameByte_xor_twoPow_eq_iff (v : BitVec 40) {i k : Nat} (hi : i < 40) :
    frameByte (v ^^^ BitVec.twoPow 40 i) k = frameByte v k ↔ i / 8 ≠ k := by
  rw [← frameByte_twoPow_eq_zero_iff hi, frameByte, BitVec.extractLsb'_xor]
  exact xor_left_eq_self_iff

/-- Two sums that differ in exactly one byte are not both right. -/
theorem not_passes_of_flipped {s u : State} {i : Nat} (hi : i < 40) (hs : passes s = true)
    (hflip : frame40 u = frame40 s ^^^ BitVec.twoPow 40 i) : passes u = false := by
  rw [passes_iff_frameByte] at hs
  refine Bool.eq_false_iff.mpr fun hu => ?_
  rw [passes_iff_frameByte, hflip] at hu
  have hsame (k : Nat) (hk : i / 8 ≠ k) := (frameByte_xor_twoPow_eq_iff (frame40 s) hi).mpr hk
  have hlt : i / 8 < 5 := by omega
  refine (frameByte_xor_twoPow_eq_iff (frame40 s) hi).mp ?_ rfl
  generalize i / 8 = q at hsame hlt ⊢
  interval_cases q
  · simpa [hsame, hs] using hu.symm
  all_goals simpa [hsame, ← hs] using hu

/-- Settles O49: CHECK of the flipped frame completes with FAIL. -/
theorem singleBitCorruptionFails : Obligations.SingleBitCorruptionFails := by
  intro s u i hs hflip hu hc
  have hfail : passes u = false := not_passes_of_flipped i.isLt ((passes_iff_byteSum s).mpr hs) hflip
  have hexec := exec_check_of_complete hu (congrArg Fin.val hc)
  rw [hfail] at hexec
  exact ⟨_, _, hexec, rfl, rfl, checkData_passBit _ _ _, checkData_errKindField _ _ _⟩

/-! ### After a failing CHECK -/

theorem readFrameData_frameField (frame : BitVec 40) (k : Fin 41) (v : Chk) :
    (readFrameData frame k v).extractLsb' 0 40 = frame := by
  refine BitVec.eq_of_getLsbD_eq fun j hj => ?_
  rw [BitVec.getLsbD_extractLsb', decide_eq_true hj, Bool.true_and, Nat.zero_add,
    getLsbD_readFrameData _ _ _ hj]

/-- Settles O50: CHECK's completion leaves the frame and a running block. -/
theorem failingCheckKeepsFrame : Obligations.FailingCheckKeepsFrame := by
  intro s t hs h hchk hfault
  obtain ⟨-, ⟨d, rfl⟩, -⟩ := exec_next_of_fault_none h hfault
  have ht : ((completed .check s).setResponse ⟨0, d⟩).Ready := hs
  exact ⟨rfl, rfl, rfl, exec_decode_of_not_pass ht (hchk ▸ by decide), _, exec_readframe ht,
    readFrameData_frameField _ _ _⟩

end Sys2Proof.Machine
end

section
/-! The fields of a reading (43_decoder.md section 2): each is exact, stays in its range, and together they give `H` and
`T` back. -/

namespace Sys2Proof.Machine

/-! ### The layout's fields (R170) -/

theorem decodeData_humIntField (hi hd : Nat) (ti : Int) (td : Nat) (sign : Bool) :
    ((decodeData hi hd ti td sign).extractLsb' 0 13).toNat = hi % 2 ^ 13 := by
  rw [toNat_field, decodeData_toNat]
  omega

theorem decodeData_humDecField (hi hd : Nat) (ti : Int) (td : Nat) (sign : Bool) :
    ((decodeData hi hd ti td sign).extractLsb' 13 4).toNat = hd % 2 ^ 4 := by
  rw [toNat_field, decodeData_toNat]
  omega

theorem decodeData_signField (hi hd : Nat) (ti : Int) (td : Nat) (sign : Bool) :
    ((decodeData hi hd ti td sign).extractLsb' 34 1).toNat = sign.toNat := by
  have hti := (BitVec.ofInt 13 ti).isLt
  have hsign := sign.toNat_le
  rw [toNat_field, decodeData_toNat]
  omega

theorem decodeData_toNat_lt (hi hd : Nat) (ti : Int) (td : Nat) (sign : Bool) :
    (decodeData hi hd ti td sign).toNat < 2 ^ 35 := by
  have hti := (BitVec.ofInt 13 ti).isLt
  have hsign := sign.toNat_le
  rw [decodeData_toNat]
  omega

/-! ### The temperature's quotient (R173) -/

theorem tmpInt_natAbs (t : BitVec 16) : (tmpInt t).natAbs = magnitude t / 10 := by
  rw [tmpInt]
  split_ifs <;> omega

theorem tmpInt_natAbs_le (t : BitVec 16) : (tmpInt t).natAbs ≤ 3276 := by
  have hmag := magnitude_lt t
  rw [tmpInt_natAbs]
  omega

/-- The quotient fits its 13 bits with its sign. -/
theorem tmpInt_toInt_ofInt (t : BitVec 16) : (BitVec.ofInt 13 (tmpInt t)).toInt = tmpInt t := by
  have hle := tmpInt_natAbs_le t
  rw [BitVec.toInt_ofInt]
  exact Int.bmod_eq_of_le (by omega) (by omega)

/-! ### The reading -/

/-- Settles O52: no field of a reading is cut off. -/
theorem readingFieldsAreExact : Obligations.ReadingFieldsAreExact := by
  intro s t d h hr
  obtain ⟨-, rfl⟩ := exec_decode_next_data h hr
  have hH := s.H.isLt
  have htmp := tmpInt_natAbs_le s.T
  rw [readingData, decodeData_humIntField, decodeData_humDecField, decodeData_tmpIntField,
    decodeData_tmpDecField, decodeData_signBit, tmpInt_toInt_ofInt, humInt, humDec, tmpDec, magnitude_eq]
  refine ⟨Nat.mod_eq_of_lt (by omega), by omega, Nat.mod_eq_of_lt (by omega), ?_, by omega, by omega,
    Nat.mod_eq_of_lt (by omega), rfl, decodeData_toNat_lt _ _ _ _ _⟩
  rw [tmpInt, magnitude_eq]
  rfl

theorem readingData_recovers (h t : BitVec 16) :
    h.toNat = 10 * ((readingData h t).extractLsb' 0 13).toNat +
      ((readingData h t).extractLsb' 13 4).toNat ∧
    t.toNat = ((readingData h t).extractLsb' 34 1).toNat * 2 ^ 15 +
      10 * ((readingData h t).extractLsb' 17 13).toInt.natAbs +
        ((readingData h t).extractLsb' 30 4).toNat := by
  have hh := h.isLt
  rw [readingData, decodeData_humIntField, decodeData_humDecField, decodeData_tmpIntField,
    decodeData_tmpDecField, decodeData_signField, tmpInt_toInt_ofInt, tmpInt_natAbs, signFlag_toNat,
    humInt, humDec, tmpDec, magnitude_eq]
  omega

/-- Settles O53: quotient and remainder by 10 give the value back, and the sign bit completes `T`. -/
theorem readingRecoversFields : Obligations.ReadingRecoversFields := by
  intro s t d h hr
  obtain ⟨-, rfl⟩ := exec_decode_next_data h hr
  exact readingData_recovers s.H s.T

end Sys2Proof.Machine
end

section
/-! Whole frames (10_state.md section 2, 41_accumulator.md section 5): the frame as one number, and the run of the block
over the forty APPENDs of a frame. -/

namespace Sys2Proof.Machine

/-! ### The frame as a number (R26) -/

/-- Settles O31: the concatenation as a number, and its bit `39 − i`. -/
theorem frameBitPlacement : Obligations.FrameBitPlacement := by
  intro s i
  refine ⟨frame40_toNat s, ?_⟩
  rw [frameBit, ← BitVec.testBit_toNat, Nat.testBit_eq_decide_div_mod_eq, frame40_toNat,
    decide_eq_true_iff]

/-- The fields are slices of the frame. -/
theorem fields_of_frame40_eq {s : State} {v : BitVec 40} (h : frame40 s = v) :
    s.H = v.extractLsb' 24 16 ∧ s.T = v.extractLsb' 8 16 ∧ s.C = v.extractLsb' 0 8 := by
  have hT := s.T.isLt
  have hC := s.C.isLt
  subst h
  refine ⟨?_, ?_, ?_⟩ <;>
    rw [← BitVec.toNat_inj, BitVec.extractLsb'_toNat, Nat.shiftRight_eq_div_pow, frame40_toNat] <;>
    omega

/-- A state whose frame bits are those of `v` holds `v`. -/
theorem frame40_eq_of_frameBit {s : State} {v : BitVec 40}
    (h : ∀ j : Fin 40, frameBit s j = v.getLsbD (39 - j.val)) : frame40 s = v := by
  refine BitVec.eq_of_getLsbD_eq fun i hi => ?_
  rw [getLsbD_frame40 s hi, h, Nat.sub_sub_self (by omega)]

/-! ### Sending a frame (R128) -/

/-- A run goes on from the state after its first step. -/
theorem run_succ_of_step {s t : State} (h : step s = .next t) (n : Nat) :
    Host.Core.run Sys2Proof.core (n + 1) s = Host.Core.run Sys2Proof.core n t := by
  have hcore : Sys2Proof.core.step s = .next t := h
  simp only [Host.Core.run, hcore]

/-- A step at the word of a well-formed command is that command. -/
theorem step_of_encode {s : State} {i : Instr} {rest : List PortInput}
    (hp : s.port = .cmd (encode i) :: rest) (hwf : i.wellFormed = true) :
    step s = exec i (s.setPort rest) :=
  step_of_legal hp (decodeWord_encode hwf)

/-- A step at an APPEND word below 40 (R121). -/
theorem step_append {s : State} {b : Bool} {rest : List PortInput} (hs : s.Ready)
    (hc : s.cursor.val ≠ 40) (hp : s.port = .cmd (encode (.append b)) :: rest) :
    step s =
      .next (((appended b s).setPort rest).setResponse ⟨0, appendData (nextCursor s.cursor)⟩) := by
  rw [step_of_encode hp rfl, exec_append_of_incomplete (s := s.setPort rest) hs b hc,
    show appended b (s.setPort rest) = _ from completed_with (.append b) s rest s.response]
  rfl

/-- `t` is `s` after the first `k` of the APPENDs that send `v`, with the others and then `rest` still to come. -/
structure Sent (v : BitVec 40) (rest : List PortInput) (s : State) (k : Nat) (t : State) : Prop where
  cursor : t.cursor.val = k
  written : ∀ j : Fin 40, j.val < k → frameBit t j = v.getLsbD (39 - j.val)
  port : t.port = appendInputs ((arrivalBits v).drop k) ++ rest
  response : 0 < k → t.response = some ⟨0, appendData t.cursor⟩
  chk : t.chk = s.chk
  fault : t.fault = s.fault
  phaseTable : t.phaseTable = s.phaseTable
  started : t.started = s.started

section
variable {v : BitVec 40} {rest : List PortInput} {s t : State}

theorem sent_zero (hc : s.cursor = 0) (hp : s.port = appendInputs (arrivalBits v) ++ rest) :
    Sent v rest s 0 s :=
  ⟨by simp [hc], fun _ hj => absurd hj (Nat.not_lt_zero _), hp, nofun, rfl, rfl, rfl, rfl⟩

/-- The first of the bits still to send is the one that the cursor names. -/
theorem arrivalBits_drop (v : BitVec 40) {k : Nat} (hk : k < 40) :
    (arrivalBits v).drop k = v.getLsbD (39 - k) :: (arrivalBits v).drop (k + 1) := by
  have hlen : k < (arrivalBits v).length := by simpa [arrivalBits] using hk
  rw [List.drop_eq_getElem_cons hlen]
  simp [arrivalBits]

/-- One more step sends one more bit. -/
theorem sent_step {k : Nat} (h : Sent v rest s k t) (hs : s.Ready) (hk : k < 40) :
    ∃ u, step t = .next u ∧ Sent v rest s (k + 1) u := by
  obtain ⟨rfl, hwritten, hport, -, hchk, hfault, htable, hstarted⟩ := h
  rw [arrivalBits_drop v hk] at hport
  obtain ⟨hchk', hfault', htable', hstarted', -⟩ := appended_frame (v.getLsbD (39 - t.cursor.val)) t
  refine ⟨_, step_append ⟨hstarted.trans hs.1, hfault.trans hs.2⟩ hk.ne hport,
    appended_cursor_val hk.ne (v.getLsbD (39 - t.cursor.val)), fun j hj => ?written, rfl,
    fun _ => rfl, hchk'.trans hchk, hfault'.trans hfault, htable'.trans htable, hstarted'.trans hstarted⟩
  refine (frameBit_appended hk _ j).trans ?_
  split_ifs with hat
  · rw [hat]
  · exact hwritten j (by omega)

/-- The run over all the bits still to send. -/
theorem sent_run {k n : Nat} (h : Sent v rest s k t) (hs : s.Ready) (hn : k + n = 40) :
    ∃ u, Sent v rest s 40 u ∧
      ∀ m, Host.Core.run Sys2Proof.core (n + m) t = Host.Core.run Sys2Proof.core m u := by
  induction n generalizing k t with
  | zero =>
    obtain rfl : k = 40 := hn
    exact ⟨t, h, fun m => by rw [Nat.zero_add]⟩
  | succ n ih =>
    obtain ⟨t', hstep, hsent⟩ := sent_step h hs (by omega)
    obtain ⟨u, hu, hrun⟩ := ih hsent (by omega)
    refine ⟨u, hu, fun m => ?_⟩
    rw [Nat.succ_add, run_succ_of_step hstep, hrun]

theorem run_forty_appends (hs : s.Ready) (hc : s.cursor = 0)
    (hp : s.port = appendInputs (arrivalBits v) ++ rest) :
    ∃ u, Sent v rest s 40 u ∧
      ∀ m, Host.Core.run Sys2Proof.core (40 + m) s = Host.Core.run Sys2Proof.core m u :=
  sent_run (sent_zero hc hp) hs rfl

theorem frame40_of_sent (h : Sent v rest s 40 t) : frame40 t = v :=
  frame40_eq_of_frameBit fun j => h.written j j.isLt

/-- A frame wholly sent stands in the buffer. -/
theorem eq_of_sent (h : Sent v rest s 40 t) :
    t = { s with H := v.extractLsb' 24 16, T := v.extractLsb' 8 16, C := v.extractLsb' 0 8,
                 cursor := 40, port := rest, response := some ⟨0, 0x68⟩ } := by
  obtain ⟨hH, hT, hC⟩ := fields_of_frame40_eq (frame40_of_sent h)
  obtain ⟨hcursor, -, hport, hresponse, hchk, hfault, htable, hstarted⟩ := h
  have hcursor : t.cursor = 40 := Fin.ext hcursor
  have hresponse : t.response = some ⟨0, 0x68⟩ := by
    rw [hresponse (by decide), hcursor]
    decide
  have hport : t.port = rest := hport
  rw [← hH, ← hT, ← hC, ← hcursor, ← hchk, ← hfault, ← htable, ← hstarted, ← hport, ← hresponse]

end

/-- Settles O35: forty steps send the frame, and the next APPEND finds it complete. -/
theorem fortyAppendsBuildFrame : Obligations.FortyAppendsBuildFrame := by
  intro s v rest hs hc _ hp
  obtain ⟨t, ht, hrun⟩ := run_forty_appends hs hc hp
  refine ⟨(hrun 0).trans (congrArg Host.Outcome.next (eq_of_sent ht)), ?_⟩
  rintro b later rfl
  have hready : (t.setPort later).Ready := ⟨ht.started.trans hs.1, ht.fault.trans hs.2⟩
  have hstep : step t = raiseFault .appendOverflow (t.setPort later) :=
    (step_of_encode ht.port rfl).trans (exec_append_of_complete hready b ht.cursor)
  exact ⟨_, (hrun 1).trans (run_succ_of_step hstep 0), rfl⟩

/-! ### A whole read -/

/-- The fields of a frame given as its three fields. -/
theorem fields_of_frame40_eq_append {s : State} {h t : BitVec 16} {c : BitVec 8}
    (hv : frame40 s = h ++ t ++ c) : s.H = h ∧ s.T = t ∧ s.C = c := by
  have hT := s.T.isLt
  have hC := s.C.isLt
  have ht := t.isLt
  have hc := c.isLt
  have hnum := congrArg BitVec.toNat hv
  rw [frame40_toNat, toNat_append_eq, toNat_append_eq] at hnum
  simp only [← BitVec.toNat_inj]
  omega

/-- A CHECK and a DECODE of a complete frame that passes leave PASS and the reading of it. -/
theorem run_check_decode {s : State} {rest : List PortInput} (hs : s.Ready) (hc : s.cursor.val = 40)
    (hpass : passes s = true)
    (hp : s.port = .cmd (encode .check) :: .cmd (encode .decode) :: rest) :
    Host.Core.run Sys2Proof.core 2 s =
      .next { s with chk := .pass, port := rest, response := some ⟨0, readingData s.H s.T⟩ } := by
  have hcheck := (step_of_encode hp rfl).trans
    (exec_check_of_complete (s := s.setPort (.cmd (encode .decode) :: rest)) hs hc)
  change step s = respond _ ((s.setPort _).setChk (chkOfPass (passes s))) at hcheck
  rw [hpass, respond_eq] at hcheck
  rw [run_succ_of_step hcheck]
  refine run_succ_of_step (n := 0) ((step_of_encode rfl rfl).trans (exec_decode_of_pass ?_ rfl))
  exact hs

/-- Settles O36: the frame sent passes, so CHECK leaves PASS and DECODE answers the reading of it. -/
theorem wholeReadRoundTrip : Obligations.WholeReadRoundTrip := by
  intro s h t c rest hs hc _ hsum hp
  obtain ⟨a, ha, hrun⟩ := run_forty_appends hs hc hp
  obtain ⟨rfl, rfl, rfl⟩ := fields_of_frame40_eq_append (frame40_of_sent ha)
  have hready : a.Ready := ⟨ha.started.trans hs.1, ha.fault.trans hs.2⟩
  obtain ⟨hH, hT⟩ := readingData_recovers a.H a.T
  exact ⟨_, _, (hrun 2).trans
      (run_check_decode hready ha.cursor ((passes_iff_byteSum a).mpr hsum) ha.port),
    rfl, rfl, rfl, rfl, hready, rfl, hH.symm, hT.symm⟩

end Sys2Proof.Machine
end
